-- ==== Sys2Proof/Word.lean ====
section
/-! DEFINITION. The word types of the block and the plain records built of them: the formats NIB, PROD, RP2,
TRACE, RESULT and ERR of `30_encoding.md`, as types. Nothing here computes. -/

namespace Sys2Proof

/-- One bit (`bv(1)`): the guard bit, a selected bit. -/
abbrev Bit := BitVec 1

/-- Format NIB, a 4-bit two's-complement word (R72): `A`, `Q`, `M`, `NEGM`, `QINIT`. -/
abbrev Nib := BitVec 4

/-- Eight bits: format PROD (R73) and the input side of the widest combinational function. -/
abbrev Byte := BitVec 8

/-- Format RP2, the recode pattern `Q[0] ‖ Qm1` (R75). -/
abbrev Pattern := BitVec 2

/-- The operation performed in an iteration; three kinds and no fourth (R81, V7). -/
inductive Op where
  | nop
  | addM
  | subM
  deriving DecidableEq, Repr, Inhabited

/-- Which operand a RangeError reports: `ERRSRC`, 0 = multiplicand, 1 = multiplier (R35). -/
inductive Which where
  | multiplicand
  | multiplier
  deriving DecidableEq, Repr, Inhabited

/-- An operand as its ENC_4 instance receives it: the block has one instance for each of the two (R100; log 12). -/
structure Operand where
  which : Which
  value : Int
  deriving DecidableEq, Repr

/-- The source's BoothState: the three registers one run mutates (R15, R44). -/
structure BoothState where
  a   : Nib
  q   : Nib
  qm1 : Bit
  deriving DecidableEq, Repr, Inhabited

/-- One TraceStep as a record of its nine fields (R80; D11 allows the record for the 25 bits). -/
structure TraceStep where
  idx     : BitVec 3
  aPre    : Nib
  qPre    : Nib
  qm1Pre  : Bit
  pat     : Pattern
  op      : Op
  aPost   : Nib
  qPost   : Nib
  qm1Post : Bit
  deriving DecidableEq, Repr, Inhabited

/-- The trace buffer `TRACE[1..4]` (R36, R39): four records, named by their step index. -/
structure TraceBuf where
  t1 : TraceStep
  t2 : TraceStep
  t3 : TraceStep
  t4 : TraceStep
  deriving DecidableEq, Repr, Inhabited

/-- What the function ENC_w raises: the value and the two bounds (R103). -/
structure CodecError where
  value : Int
  lo    : Int
  hi    : Int
  deriving DecidableEq, Repr

/-- Format ERR, the error payload of a failed MUL (R84) and of an ENC_4 instance (R100). Its kind is the type itself: there is one kind (R181). -/
structure RangeError where
  value : Int
  lo    : Int
  hi    : Int
  which : Which
  deriving DecidableEq, Repr

/-- Format RESULT, what a finished run returns (R83). -/
structure Result where
  productDec : Int
  productBin : Byte
  trace      : List TraceStep
  m          : Nib
  negM       : Nib
  qInitial   : Nib
  deriving DecidableEq, Repr

/-- The command ports of one clock cycle (R41, R78): `rst`, `start` and the two operand ports. The operands are the
integers the ports carry, whatever IN_W is (R7, R71). -/
structure Ports where
  rst          : Bool
  start        : Bool
  multiplicand : Int
  multiplier   : Int
  deriving DecidableEq, Repr

end Sys2Proof
end

