-- ==== Sys2Proof/Config.lean ====
section
/-! DEFINITION. What is fixed for the machine (R5 to R8) and the free values: the values the spec leaves without
definition after a RESET command (R42, R210). The free values have no body, so nothing can be proved of them. -/

namespace Sys2Proof

/-- The operand width, fixed at 4 (R5). -/
abbrev Config.n : Nat := 4

/-- The least legal operand, and the error bound `ERRLO` (R6, R34). -/
abbrev Config.vmin : Int := -8

/-- The greatest legal operand, and the error bound `ERRHI` (R6, R34). -/
abbrev Config.vmax : Int := 7

/-- Iterations per run, and trace entries per successful run (R6). -/
abbrev Config.nIter : Nat := 4

/-- IN_W, the width of the operand ports, at its default 8 (R7). Only the bit encodings CMD and OPND depend on it
(DESIGN CHOICE, log 5). -/
abbrev Config.inW : Nat := 8

/-- The width of a CMD word, `2·IN_W + 2` (R78). -/
abbrev Config.cmdW : Nat := 2 * Config.inW + 2

/-! What a RESET command leaves in each register that it leaves without value (log 2): the argument is the
state's own count of such events. -/

opaque Config.freeA : Nat → Nib
opaque Config.freeQ : Nat → Nib
opaque Config.freeQm1 : Nat → Bit
opaque Config.freeM : Nat → Nib
opaque Config.freeNegm : Nat → Nib
opaque Config.freeQinit : Nat → Nib
opaque Config.freeErrval : Nat → Int
opaque Config.freeErrsrc : Nat → Which
opaque Config.freeTrace : Nat → TraceBuf

end Sys2Proof
end

