-- ==== Sys2Proof/Syntax.lean ====
section
/-! DEFINITION. The instructions: one constructor per row of `spec/opcode_table.json`, in the table's order. -/

namespace Sys2Proof

/-- The operations of the opcode table (R92). An operand port's value is an `Int` (R7). RESET and NOCMD keep the
port bits they ignore as operands, so that no bit of a word is dropped (DESIGN CHOICE, log 10). -/
inductive Instr where
  /-- NOP at pattern `00` (R145). -/
  | nop00
  /-- ADD_M at pattern `01` (R146). -/
  | addM
  /-- SUB_M at pattern `10` (R147). -/
  | subM
  /-- NOP at pattern `11` (R148). -/
  | nop11
  /-- RESET, `rst = 1`; `start` and the operand ports are ignored (R210, R211). -/
  | reset (start : Bool) (multiplicand multiplier : Int)
  /-- MUL m, r: `rst = 0`, `start = 1` (R141). -/
  | mul (m r : Int)
  /-- NOCMD: `rst = 0`, `start = 0`; the operand ports are ignored (R165). -/
  | nocmd (multiplicand multiplier : Int)
  /-- SHR9 on `a ‖ q ‖ g` (R122). -/
  | shr9 (a q : Nib) (g : Bit)
  /-- ENC_4 (R102) on the value of this operand, at the instance for it (R100; log 12). -/
  | enc4 (v : Operand)
  /-- DEC_4 (R105). -/
  | dec4 (b : Nib)
  /-- DEC_8 on `a ‖ q` (R106). -/
  | dec8 (a q : Nib)
  /-- SEXT_4_8 (R107). -/
  | sext48 (b : Nib)
  /-- NEG_4 (R109). -/
  | neg4 (b : Nib)
  /-- SRA_4 (R120). -/
  | sra4 (b : Nib)
  /-- ADD_MOD_4 (R149). -/
  | addMod4 (a b : Nib)
  /-- LSB_4 (R124). -/
  | lsb4 (b : Nib)
  /-- MSB_4 (R125). -/
  | msb4 (b : Nib)
  /-- CONCAT_4_4 (R126). -/
  | concat44 (a b : Nib)
  deriving DecidableEq, Repr

/-- The format column of the opcode table (R70). -/
inductive Format where
  | rp2
  | cmd
  | shreg
  | opnd
  | nib
  | prod
  | nibNib
  deriving DecidableEq, Repr

/-- The format the opcode table gives each row (R92). -/
def Instr.format : Instr → Format
  | .nop00 | .addM | .subM | .nop11 => .rp2
  | .reset _ _ _ | .mul _ _ | .nocmd _ _ => .cmd
  | .shr9 _ _ _ => .shreg
  | .enc4 _ => .opnd
  | .dec4 _ | .sext48 _ | .neg4 _ | .sra4 _ | .lsb4 _ | .msb4 _ => .nib
  | .dec8 _ _ => .prod
  | .addMod4 _ _ | .concat44 _ _ => .nibNib

end Sys2Proof
end

