-- ==== Sys2Proof/WellFormed.lean ====
section
/-! DEFINITION. Which instructions have an encoding at the printed port width: an operand port of IN_W bits carries a
signed integer of that width and no other (R7, R71). -/

namespace Sys2Proof

/-- `v` is a value an operand port of `inW` bits can carry (R7). -/
abbrev FitsPort (inW : Nat) (v : Int) : Prop :=
  -(2 ^ (inW - 1)) ≤ v ∧ v ≤ 2 ^ (inW - 1) - 1

/-- Both operand ports carry values of the port's width. -/
abbrev Ports.Fit (inW : Nat) (p : Ports) : Prop :=
  FitsPort inW p.multiplicand ∧ FitsPort inW p.multiplier

/-- The instruction's port operands fit IN_W bits; every other operand has its width by its type (R55, V12). -/
def Instr.wf : Instr → Bool
  | .reset _ m r => decide (FitsPort Config.inW m) && decide (FitsPort Config.inW r)
  | .mul m r => decide (FitsPort Config.inW m) && decide (FitsPort Config.inW r)
  | .nocmd m r => decide (FitsPort Config.inW m) && decide (FitsPort Config.inW r)
  | .enc4 v => decide (FitsPort Config.inW v.value)
  | .nop00 | .addM | .subM | .nop11 => true
  | .shr9 _ _ _ => true
  | .dec4 _ | .dec8 _ _ | .sext48 _ | .neg4 _ => true
  | .sra4 _ | .addMod4 _ _ | .lsb4 _ | .msb4 _ | .concat44 _ _ => true

/-- An instruction that has an encoding. -/
abbrev Instr.WellFormed (i : Instr) : Prop := i.wf = true

end Sys2Proof
end

