-- ==== Sys2Proof/Decode.lean ====
section
/-! DEFINITION. The bit formats of `30_encoding.md`, decoded and encoded. A word is read where the hardware has it: on
the command ports (CMD), on the wires `Q[0] ‖ Qm1` (RP2), on the shifter's inputs (SHREG), or on the inputs of a
wired combinational function, which no code selects (R77, R92). -/

namespace Sys2Proof

/-- The bits on the inputs of a combinational function, each port at its own width: a word of another width is a type
error (R55, V12). No code selects the function, it is selected by being wired (R92, R100). -/
inductive UnitInput where
  /-- The `value` port of the ENC_4 instance for this operand (R100; log 12). -/
  | enc4 (which : Which) (value : BitVec Config.inW)
  | dec4 (bits : Nib)
  | dec8 (bits : Byte)
  | sext48 (bits : Nib)
  | neg4 (bits : Nib)
  | sra4 (bits : Nib)
  /-- `aaaabbbb`, as the table's encoding column shows the two ports. -/
  | addMod4 (word : Byte)
  | lsb4 (bits : Nib)
  | msb4 (bits : Nib)
  /-- `aaaabbbb`. -/
  | concat44 (word : Byte)
  deriving DecidableEq, Repr

/-- A word together with the place it is read at. -/
inductive Code where
  | cmd (w : BitVec Config.cmdW)
  | rp2 (p : Pattern)
  | shreg (w : BitVec 9)
  | wired (u : UnitInput)
  deriving DecidableEq, Repr

/-! Format CMD (R78, R79) -/

/-- The command ports read from a CMD word of ports of any width `inW`: the general column of R78. -/
def Ports.ofBits (inW : Nat) (w : BitVec (2 * inW + 2)) : Ports where
  rst := w.getLsbD (2 * inW + 1)
  start := w.getLsbD (2 * inW)
  multiplicand := (w.extractLsb' inW inW).toInt
  multiplier := (w.extractLsb' 0 inW).toInt

/-- The command ports written side by side as a CMD word (R78, D20). -/
def Ports.toBits (inW : Nat) (p : Ports) : BitVec (2 * inW + 2) :=
  (BitVec.ofBool p.rst ++ BitVec.ofBool p.start ++
    (BitVec.ofInt inW p.multiplicand ++ BitVec.ofInt inW p.multiplier)).cast (by omega)

/-- The ports while the host presents no command (R165). -/
def Ports.quiet : Ports where
  rst := false
  start := false
  multiplicand := 0
  multiplier := 0

/-- The command the ports carry (R79): `rst` before `start` (R211). -/
def Ports.command (p : Ports) : Instr :=
  if p.rst then .reset p.start p.multiplicand p.multiplier
  else if p.start then .mul p.multiplicand p.multiplier
  else .nocmd p.multiplicand p.multiplier

/-! Format RP2 (R75, R76) -/

/-- The operation map: every pattern selects one operation (R76, R77). -/
def decodePattern (p : Pattern) : Instr :=
  if p = 0b00#2 then .nop00
  else if p = 0b01#2 then .addM
  else if p = 0b10#2 then .subM
  else .nop11

/-! Formats SHREG, OPND, NIB, PROD (R71 to R74) -/

/-- SHREG: `A` in bits 8 to 5, `Q` in bits 4 to 1, `Qm1` in bit 0 (R74). -/
def decodeShift (w : BitVec 9) : Instr :=
  .shr9 (w.extractLsb' 5 4) (w.extractLsb' 1 4) (w.extractLsb' 0 1)

/-- The instruction of a function's input bits, laid out as the table's encoding column shows them. -/
def decodeWired : UnitInput → Instr
  | .enc4 which w => .enc4 ⟨which, w.toInt⟩
  | .dec4 b => .dec4 b
  | .dec8 w => .dec8 (w.extractLsb' 4 4) (w.extractLsb' 0 4)
  | .sext48 b => .sext48 b
  | .neg4 b => .neg4 b
  | .sra4 b => .sra4 b
  | .addMod4 w => .addMod4 (w.extractLsb' 4 4) (w.extractLsb' 0 4)
  | .lsb4 b => .lsb4 b
  | .msb4 b => .msb4 b
  | .concat44 w => .concat44 (w.extractLsb' 4 4) (w.extractLsb' 0 4)

/-- The decoder: total, with no invalid verdict (R77). -/
def decode : Code → Instr
  | .cmd w => (Ports.ofBits Config.inW w).command
  | .rp2 p => decodePattern p
  | .shreg w => decodeShift w
  | .wired u => decodeWired u

/-! The encoder, from the same tables -/

/-- The CMD word of a command (R78, R79). -/
def encodeCmd (rst start : Bool) (m r : Int) : Code :=
  .cmd (Ports.toBits Config.inW ⟨rst, start, m, r⟩)

/-- The encoder: the word of an instruction, at the place it is read. -/
def encode : Instr → Code
  | .nop00 => .rp2 0b00#2
  | .addM => .rp2 0b01#2
  | .subM => .rp2 0b10#2
  | .nop11 => .rp2 0b11#2
  | .reset start m r => encodeCmd true start m r
  | .mul m r => encodeCmd false true m r
  | .nocmd m r => encodeCmd false false m r
  | .shr9 a q g => .shreg (a ++ q ++ g)
  | .enc4 v => .wired (.enc4 v.which (BitVec.ofInt Config.inW v.value))
  | .dec4 b => .wired (.dec4 b)
  | .dec8 a q => .wired (.dec8 (a ++ q))
  | .sext48 b => .wired (.sext48 b)
  | .neg4 b => .wired (.neg4 b)
  | .sra4 b => .wired (.sra4 b)
  | .addMod4 a b => .wired (.addMod4 (a ++ b))
  | .lsb4 b => .wired (.lsb4 b)
  | .msb4 b => .wired (.msb4 b)
  | .concat44 a b => .wired (.concat44 (a ++ b))

/-! Words of the opcode table -/

/-- The word of a table row, from its bits and the number of bits the table gives the row, in whole bytes. The width
tells the three formats that are read at one place only: RP2 (2 bits), SHREG (9), CMD (18). A wired function has no
selector, so bits alone never name one (R92; log 7). -/
def tableCode (nbits w : Nat) : Option Code :=
  if nbits = 0 then none
  else if nbits ≤ 8 then if w < 2 ^ 2 then some (.rp2 (BitVec.ofNat 2 w)) else none
  else if nbits ≤ 16 then if w < 2 ^ 9 then some (.shreg (BitVec.ofNat 9 w)) else none
  else if nbits ≤ 24 then
    if w < 2 ^ Config.cmdW then some (.cmd (BitVec.ofNat Config.cmdW w)) else none
  else none

/-- The instruction the decoder reads from a table word. -/
def decodeTableWord (nbits w : Nat) : Option Instr := (tableCode nbits w).map decode

end Sys2Proof
end

