-- ==== Sys2Proof/Machine/State.lean ====
section
/-! DEFINITION. The state of the block (`10_state.md`), why a step or a read can stop, and the state after reset. -/

namespace Sys2Proof.Machine

/-- PHASE: no run since reset, a run in progress, a run finished, the last MUL raised RangeError (R31, R87). -/
inductive Phase where
  | idle
  | busy
  | done
  | error
  deriving DecidableEq, Repr

/-- What the host presents in one step (log 4, log 6). -/
inductive Stimulus where
  /-- A rising clock edge with these values on the command ports (R41). -/
  | clock (p : Ports)
  /-- Inputs on a stand-alone instance of a combinational function (R100, R127): no clock edge. -/
  | drive (u : UnitInput)
  deriving DecidableEq, Repr

/-- The output ports of the stand-alone combinational instance last driven (R100; log 6). -/
inductive UnitOut where
  | undriven
  | enc4 (bits : Nib)
  /-- `range_err = 1` with the error payload of R84; `bits` holds no value (R100, R103). -/
  | enc4RangeErr (e : RangeError)
  | dec4 (value : Int)
  | dec8 (value : Int)
  | sext48 (bits : Byte)
  | neg4 (bits : Nib)
  | sra4 (bits : Nib)
  | addMod4 (bits : Nib)
  | lsb4 (bit : Bit)
  | msb4 (bit : Bit)
  | concat44 (bits : Byte)
  deriving DecidableEq, Repr

/-- The outputs that hold a value only in one phase (R37, R35). -/
inductive View where
  | productBin
  | productDec
  | mEnc
  | negmEnc
  | qInit
  | traceRec
  | errValue
  | errSrc
  deriving DecidableEq, Repr

/-- Why the machine or a read stops. -/
inductive Fault where
  /-- An output that holds no value was read (R13, R217). Raised by the views, by no instruction. Safe. -/
  | noValue (v : View)
  /-- An iteration in BUSY with CNT above 3: unreachable, and no rule gives it a successor (R150, V8; log 8). Raised by
  MUL and NOCMD. Safe. -/
  | iterationPastEnd
  deriving DecidableEq, Repr

/-- Why the machine has no meaning for what it is given. No step answers one: every input is an instruction (R77). -/
inductive Refusal where
  /-- The instruction has no meaning yet. Raised by `exec` only. Safe. -/
  | notModelled (mnemonic : String)
  deriving DecidableEq, Repr

/-- The state: the registers of R20, then the model's own three fields (logs 2, 4, 6). -/
structure State where
  /-- `A`, the accumulator (R21). -/
  a       : Nib
  /-- `Q`, the multiplier register (R22). -/
  q       : Nib
  /-- `Qm1`, the guard bit (R23). -/
  qm1     : Bit
  /-- `M`, the multiplicand's encoding (R24). -/
  m       : Nib
  /-- `NEGM`, the encoding of its negation (R25). -/
  negm    : Nib
  /-- `QINIT`, the multiplier's encoding as first loaded (R26). -/
  qinit   : Nib
  /-- `CNT`, iterations completed in this run (R30). -/
  cnt     : BitVec 3
  /-- `PHASE` (R31). -/
  phase   : Phase
  /-- `ERRVAL`, the offending value of the last RangeError (R35). -/
  errval  : Int
  /-- `ERRSRC`, which operand offended (R35). -/
  errsrc  : Which
  /-- `TRACE[1..4]` (R36). -/
  trace   : TraceBuf
  /-- What the host presents in the coming steps, first entry next. Not the spec's (log 4). -/
  host    : List Stimulus
  /-- The outputs of the combinational instance last driven. Not the spec's (log 6). -/
  unitOut : UnitOut
  /-- The count the free values are applied to. Not the spec's (log 2). -/
  free    : Nat
  deriving DecidableEq, Repr

/-- The record that stands in every trace entry of `State.reset` (DESIGN CHOICE, log 1). -/
def blankStep : TraceStep := ⟨0#3, 0#4, 0#4, 0#1, 0#2, .nop, 0#4, 0#4, 0#1⟩

/-- The state after reset (R42): IDLE with CNT = 0. The data registers, which R42 leaves without value, hold the values
that log 1 names; no view shows them. The host has presented nothing and no function has been driven. -/
def State.reset : State where
  a := 0#4
  q := 0#4
  qm1 := 0#1
  m := 0#4
  negm := 0#4
  qinit := 0#4
  cnt := 0#3
  phase := .idle
  errval := 0
  errsrc := .multiplicand
  trace := ⟨blankStep, blankStep, blankStep, blankStep⟩
  host := []
  unitOut := .undriven
  free := 0

/-- The answer of an instruction or a step. -/
abbrev Answer := Host.Outcome State Fault Refusal

end Sys2Proof.Machine
end

