-- ==== Sys2Proof/Machine/Operands.lean ====
section
/-! DEFINITION. The combinational functions of the two sub-units and the adder, at every width the spec states them for.
A width `w ≥ 1` is written `n + 1`, so that no instance of width 0 exists (N15). -/

namespace Sys2Proof.Machine

/-! Bit primitives (`41_arithmetic_right_shifter.md`) -/

/-- LSB (R124). -/
def lsb {w : Nat} (b : BitVec w) : Bit := b.extractLsb' 0 1

/-- MSB (R125), the sign of a two's-complement word. -/
def msb {n : Nat} (b : BitVec (n + 1)) : Bit := b.extractLsb' n 1

/-- CONCAT, `a ‖ b` (R126): `a` is the most significant part. -/
def concat {wa wb : Nat} (a : BitVec wa) (b : BitVec wb) : BitVec (wa + wb) := a ++ b

/-- SRA (R120): the sign bit, then all bits but the lowest. -/
def sra {n : Nat} (b : BitVec (n + 1)) : BitVec (n + 1) :=
  (concat (msb b) (b.extractLsb' 1 n)).cast (Nat.add_comm 1 n)

/-- ADD_MOD (R149): the low bits of the sum, the carry discarded. -/
def addMod {w : Nat} (a b : BitVec w) : BitVec w := BitVec.ofNat w (a.toNat + b.toNat)

/-- SHR9 (R122): the three assignments, all from the values before the shift; the old guard bit is not used (R128). -/
def shr9 (a q : Nib) (_g : Bit) : BoothState where
  a := concat (msb a) (a.extractLsb' 1 3)
  q := concat (lsb a) (q.extractLsb' 1 3)
  qm1 := lsb q

/-! The codec (`40_twos_complement_encoder.md`) -/

/-- `v` is representable in `n + 1` bits (R101). -/
abbrev InRange (n : Nat) (v : Int) : Prop := -(2 ^ n) ≤ v ∧ v ≤ 2 ^ n - 1

/-- The bits ENC_w produces for a value in range: the two-step construction, invert and add 1 (R101). -/
def encBits (n : Nat) (v : Int) : BitVec (n + 1) :=
  if 0 ≤ v then BitVec.ofNat (n + 1) v.toNat
  else
    let a := BitVec.ofNat (n + 1) v.natAbs
    let inv := ~~~a
    addMod inv 1#(n + 1)

/-- ENC_w, w = n + 1 (R101): the range is decided before any bit is produced; the error carries value and bounds (R103). -/
def enc (n : Nat) (v : Int) : Except CodecError (BitVec (n + 1)) :=
  if InRange n v then .ok (encBits n v) else .error ⟨v, -(2 ^ n), 2 ^ n - 1⟩

/-- DEC_w, w = n + 1 (R104). -/
def dec {n : Nat} (b : BitVec (n + 1)) : Int :=
  if msb b = 1#1 then -((addMod (~~~b) 1#(n + 1)).toNat : Int) else (b.toNat : Int)

/-- SEXT_w_t, w = n + 1 (R107). An instance with a target narrower than the input cannot be built: the proof is an
argument (R108). -/
def sext {n t : Nat} (h : n + 1 ≤ t) (b : BitVec (n + 1)) : BitVec t :=
  (concat (BitVec.replicate (t - (n + 1)) (msb b)) b).cast (by omega)

/-- NEG on the bit pattern (R109, D4). -/
def neg {n : Nat} (b : BitVec (n + 1)) : BitVec (n + 1) := addMod (~~~b) 1#(n + 1)

/-! The instances the block uses or offers (R100) -/

/-- ENC_4 (R102). -/
def enc4 (v : Int) : Except CodecError Nib := enc 3 v

/-- The bits of ENC_4 for a value known to be in range, as INIT uses it (R143). -/
def enc4Bits (v : Int) : Nib := encBits 3 v

/-- DEC_4 (R105). -/
def dec4 (b : Nib) : Int := dec (n := 3) b

/-- DEC_8 (R106). -/
def dec8 (b : Byte) : Int := dec (n := 7) b

/-- SEXT_4_8 (R107). -/
def sext48 (b : Nib) : Byte := sext (n := 3) (t := 8) (by decide) b

/-- NEG_4 (R109). -/
def neg4 (b : Nib) : Nib := neg (n := 3) b

/-- SRA_4 (R120). -/
def sra4 (b : Nib) : Nib := sra (n := 3) b

/-! The recode decision (R144) -/

/-- The recode pattern: `Q[0]` first, `Qm1` second (R53, R75). -/
def recodePattern (q : Nib) (qm1 : Bit) : Pattern := concat (lsb q) qm1

/-- The operation a pattern selects, as the trace records it (R76, R81). -/
def recodeOp (pat : Pattern) : Op :=
  if pat = 0b01#2 then .addM else if pat = 0b10#2 then .subM else .nop

/-! The trace record's layout -/

/-- The numeric code of an operation (R81). -/
def opCode : Op → BitVec 2
  | .nop => 0#2
  | .addM => 1#2
  | .subM => 2#2

/-- The operation of a code; code 3 is reserved and is no operation (R81, V7). -/
def opOfCode (c : BitVec 2) : Option Op :=
  if c = 0#2 then some .nop else if c = 1#2 then some .addM else if c = 2#2 then some .subM else none

/-- A TraceStep in the 25-bit layout of R80. -/
def packStep (t : TraceStep) : BitVec 25 :=
  t.idx ++ t.aPre ++ t.qPre ++ t.qm1Pre ++ t.pat ++ opCode t.op ++ t.aPost ++ t.qPost ++ t.qm1Post

/-- The TraceStep of a 25-bit record; none where the `op` field is the reserved code (R80, V7). -/
def unpackStep (w : BitVec 25) : Option TraceStep :=
  match opOfCode (w.extractLsb' 9 2) with
  | none => none
  | some op =>
    some
      { idx := w.extractLsb' 22 3
        aPre := w.extractLsb' 18 4
        qPre := w.extractLsb' 14 4
        qm1Pre := w.extractLsb' 13 1
        pat := w.extractLsb' 11 2
        op := op
        aPost := w.extractLsb' 5 4
        qPost := w.extractLsb' 1 4
        qm1Post := w.extractLsb' 0 1 }

/-! The trace buffer -/

/-- `TRACE[i]`, for a step index 1 to 4 (R39). -/
def traceGet (t : TraceBuf) (i : BitVec 3) : Option TraceStep :=
  if i = 1#3 then some t.t1
  else if i = 2#3 then some t.t2
  else if i = 3#3 then some t.t3
  else if i = 4#3 then some t.t4
  else none

/-- `TRACE[i] <- r`, for a step index 1 to 4 (R36); there is no other entry to write. -/
def traceSet (t : TraceBuf) (i : BitVec 3) (r : TraceStep) : TraceBuf :=
  if i = 1#3 then { t with t1 := r }
  else if i = 2#3 then { t with t2 := r }
  else if i = 3#3 then { t with t3 := r }
  else if i = 4#3 then { t with t4 := r }
  else t

/-- `ERRSRC` as the port shows it: 0 = multiplicand, 1 = multiplier (R35). -/
def whichBit : Which → Bit
  | .multiplicand => 0#1
  | .multiplier => 1#1

end Sys2Proof.Machine
end

