-- ==== Sys2Proof/Machine/Flags.lean ====
section
/-! DEFINITION. The status flags: functions of PHASE, not state (R33). The block has no condition codes (R32). -/

namespace Sys2Proof.Machine

/-- The 2-bit code of PHASE (R87); no rule depends on the numbers. -/
def phaseCode : Phase → BitVec 2
  | .idle => 0b00#2
  | .busy => 0b01#2
  | .done => 0b10#2
  | .error => 0b11#2

/-- The phase of a 2-bit code; all four are legal (R87). -/
def phaseOfCode (c : BitVec 2) : Phase :=
  if c = 0b00#2 then .idle else if c = 0b01#2 then .busy else if c = 0b10#2 then .done else .error

/-- `busy` (R33). -/
def busy (s : State) : Bool := s.phase == .busy

/-- `done` (R33). -/
def done (s : State) : Bool := s.phase == .done

/-- `err` (R33). -/
def err (s : State) : Bool := s.phase == .error

end Sys2Proof.Machine
end

