-- ==== Sys2Proof/Machine/Ops.lean ====
section
/-! DEFINITION. The named operations over the registers, the taking of the one exception, and the fetch. -/

namespace Sys2Proof.Machine

/-! Registers -/

/-- The three registers a run mutates, as one value (R15). -/
def boothState (s : State) : BoothState := ⟨s.a, s.q, s.qm1⟩

/-- Write the accumulator. -/
def setA (v : Nib) (s : State) : State := { s with a := v }

/-- Write `A`, `Q` and `Qm1` together (R57). -/
def setBooth (b : BoothState) (s : State) : State := { s with a := b.a, q := b.q, qm1 := b.qm1 }

/-- Show a combinational function's outputs; no register changes (R100). -/
def setUnitOut (o : UnitOut) (s : State) : State := { s with unitOut := o }

/-- `INIT(m, r)` (R143), all writes together; both operands are in range. -/
def initRun (m r : Int) (s : State) : State :=
  { s with
    m := enc4Bits m
    negm := neg4 (enc4Bits m)
    qinit := enc4Bits r
    a := 0#4
    q := enc4Bits r
    qm1 := 0#1
    cnt := 0#3
    phase := .busy }

/-- The RESET command (R210): IDLE, CNT 0, and every register that R210 leaves without value takes a free value
(log 2). -/
def resetState (s : State) : State :=
  { s with
    phase := .idle
    cnt := 0#3
    a := Config.freeA s.free
    q := Config.freeQ s.free
    qm1 := Config.freeQm1 s.free
    m := Config.freeM s.free
    negm := Config.freeNegm s.free
    qinit := Config.freeQinit s.free
    errval := Config.freeErrval s.free
    errsrc := Config.freeErrsrc s.free
    trace := Config.freeTrace s.free
    free := s.free + 1 }

/-! The exception -/

/-- The operand test of CHECK and of ENC_4 (R142, R183). -/
abbrev OperandOk (v : Int) : Prop := Config.vmin ≤ v ∧ v ≤ Config.vmax

/-- `CHECK(m, r)` (R142): the multiplicand is examined first, and alone if it fails (R187). -/
def checkOperands (m r : Int) : Except RangeError Unit :=
  if ¬ OperandOk m then .error ⟨m, Config.vmin, Config.vmax, .multiplicand⟩
  else if ¬ OperandOk r then .error ⟨r, Config.vmin, Config.vmax, .multiplier⟩
  else .ok ()

/-- Taking RangeError (R188): the payload is latched, CNT is cleared, PHASE becomes ERROR. No state is saved, no other
register is written and there is no handler: the block waits in ERROR (R190). -/
def takeRangeError (e : RangeError) (s : State) : State :=
  { s with errval := e.value, errsrc := e.which, cnt := 0#3, phase := .error }

/- There is no return from the exception: "There is no return-from-trap operation and nothing to restore" (R190). ERROR is
left by the next MUL (`initRun`, `takeRangeError`) or by RESET (`resetState`). -/

/-! The end of an iteration -/

/-- The TraceStep of an iteration (R151), from the registers at its start and after its shift. -/
def iterationStep (start shifted : State) : TraceStep where
  idx := start.cnt + 1#3
  aPre := start.a
  qPre := start.q
  qm1Pre := start.qm1
  pat := recodePattern start.q start.qm1
  op := recodeOp (recodePattern start.q start.qm1)
  aPost := shifted.a
  qPost := shifted.q
  qm1Post := shifted.qm1

/-- Append the TraceStep at `CNT + 1` and advance: CNT <- CNT + 1, and PHASE <- DONE after the fourth (R150, R152). -/
def completeIteration (start shifted : State) : State :=
  { shifted with
    trace := traceSet start.trace (start.cnt + 1#3) (iterationStep start shifted)
    cnt := start.cnt + 1#3
    phase := if start.cnt + 1#3 = 4#3 then .done else start.phase }

/-! The fetch -/

/-- What the next step runs, and the state with the host's entry taken. With nothing presented the ports are quiet. -/
def fetch (s : State) : Instr × State :=
  match s.host with
  | [] => (Ports.quiet.command, s)
  | .clock p :: rest => (p.command, { s with host := rest })
  | .drive u :: rest => (decode (.wired u), { s with host := rest })

/-- Present `x` in the next step, before what the host presents already. -/
def present (x : Stimulus) (s : State) : State := { s with host := x :: s.host }

/-- A run in progress whose next iteration reads the pattern `p`, with quiet ports (log 7). -/
def placePattern (p : Pattern) (s : State) : State :=
  present (.clock Ports.quiet)
    { s with
      phase := .busy
      cnt := if s.cnt.toNat ≤ 3 then s.cnt else 0#3
      q := concat (s.q.extractLsb' 1 3) (p.extractLsb' 1 1)
      qm1 := p.extractLsb' 0 1 }

/-- What the operation selected by `op` adds to the accumulator (R145 to R148). -/
def addend (op : Op) (s : State) : Nib :=
  match op with
  | .nop => 0#4
  | .addM => s.m
  | .subM => s.negm

/-- A run in progress whose next iteration gives the shifter the word `a ‖ q ‖ g`: the accumulator is `a` less what the
operation selected by `q` and `g` will add (log 7). -/
def placeShift (w : BitVec 9) (s : State) : State :=
  present (.clock Ports.quiet)
    { s with
      phase := .busy
      cnt := if s.cnt.toNat ≤ 3 then s.cnt else 0#3
      a := w.extractLsb' 5 4 - addend (recodeOp (w.extractLsb' 0 2)) s
      q := w.extractLsb' 1 4
      qm1 := w.extractLsb' 0 1 }

/-- Place a word where the next step reads it. -/
def placeCode (c : Code) (s : State) : State :=
  match c with
  | .cmd w => present (.clock (Ports.ofBits Config.inW w)) s
  | .rp2 p => placePattern p s
  | .shreg w => placeShift w s
  | .wired u => present (.drive u) s

end Sys2Proof.Machine
end

