-- ==== Sys2Proof/Machine/Codec.lean ====
section
/-! DEFINITION. Unit `twos_complement_encoder`, on stand-alone instances (R100). -/

namespace Sys2Proof.Machine

/-- What the ENC_4 instance for an operand shows: the bits, or `range_err` with the payload of R84 (R100, R103). Its
`which` is the operand the instance encodes (log 12). -/
def enc4Out (v : Operand) : UnitOut :=
  match enc4 v.value with
  | .ok b => .enc4 b
  | .error e => .enc4RangeErr ⟨e.value, e.lo, e.hi, v.which⟩

/-- ENC_4 (R102): a value out of range raises `range_err`, and the machine goes on. -/
def execEnc4 (v : Operand) (s : State) : Answer := .next (setUnitOut (enc4Out v) s)

/-- DEC_4 (R105). -/
def execDec4 (b : Nib) (s : State) : Answer := .next (setUnitOut (.dec4 (dec4 b)) s)

/-- DEC_8 (R106) on the product `a ‖ q`. -/
def execDec8 (a q : Nib) (s : State) : Answer := .next (setUnitOut (.dec8 (dec8 (concat a q))) s)

/-- SEXT_4_8 (R107). -/
def execSext48 (b : Nib) (s : State) : Answer := .next (setUnitOut (.sext48 (sext48 b)) s)

/-- NEG_4 (R109): total, `1000` gives `1000` (R110). -/
def execNeg4 (b : Nib) (s : State) : Answer := .next (setUnitOut (.neg4 (neg4 b)) s)

end Sys2Proof.Machine
end

