-- ==== Sys2Proof/Machine/Booth.lean ====
section
/-! DEFINITION. Unit `booth_multiplier`: the operations the recode pattern selects, and the adder. Each is the source's
assignment to `A`; the value it leaves there is the `A_op` that the shift of the same iteration takes (log 3). -/

namespace Sys2Proof.Machine

/-- NOP at pattern `00` (R145): `A` unchanged; M and NEGM are not read. -/
def execNop00 (s : State) : Answer := .next s

/-- ADD_M at pattern `01` (R146): `A := (A + M) mod 2^4`. -/
def execAddM (s : State) : Answer := .next (setA (addMod s.a s.m) s)

/-- SUB_M at pattern `10` (R147): `A := (A + NEGM) mod 2^4`; there is no subtractor. -/
def execSubM (s : State) : Answer := .next (setA (addMod s.a s.negm) s)

/-- NOP at pattern `11` (R148). -/
def execNop11 (s : State) : Answer := .next s

/-- ADD_MOD_4 (R149) on a stand-alone adder. -/
def execAddMod4 (a b : Nib) (s : State) : Answer := .next (setUnitOut (.addMod4 (addMod a b)) s)

end Sys2Proof.Machine
end

