-- ==== Sys2Proof/Machine/Shifter.lean ====
section
/-! DEFINITION. Unit `arithmetic_right_shifter`. -/

namespace Sys2Proof.Machine

/-- SHR9 (R122): `A`, `Q` and `Qm1` take the shifted `a ‖ q ‖ g` together (R57); nothing else is written (R56). -/
def execShr9 (a q : Nib) (g : Bit) (s : State) : Answer := .next (setBooth (shr9 a q g) s)

/-- SRA_4 (R120) on a stand-alone instance. -/
def execSra4 (b : Nib) (s : State) : Answer := .next (setUnitOut (.sra4 (sra4 b)) s)

/-- LSB_4 (R124) on a stand-alone instance. -/
def execLsb4 (b : Nib) (s : State) : Answer := .next (setUnitOut (.lsb4 (lsb b)) s)

/-- MSB_4 (R125) on a stand-alone instance. -/
def execMsb4 (b : Nib) (s : State) : Answer := .next (setUnitOut (.msb4 (msb (n := 3) b)) s)

/-- CONCAT_4_4 (R126) on a stand-alone instance. -/
def execConcat44 (a b : Nib) (s : State) : Answer := .next (setUnitOut (.concat44 (concat a b)) s)

end Sys2Proof.Machine
end

