-- ==== Sys2Proof/Machine/Iteration.lean ====
section
/-! DEFINITION. ITER (R150): recode, the selected operation, the combined shift, the trace record, as one indivisible
change of state (R58). -/

namespace Sys2Proof.Machine

/-- Run the operation a recode pattern selects (R76). -/
def operate (pat : Pattern) (s : State) : Answer :=
  if pat = 0b00#2 then execNop00 s
  else if pat = 0b01#2 then execAddM s
  else if pat = 0b10#2 then execSubM s
  else execNop11 s

/-- The shift that follows every operation (R122), on the accumulator the operation left and the current Q and Qm1. -/
def shiftAll (s : State) : Answer := execShr9 s.a s.q s.qm1 s

/-- ITER (R150). Its precondition CNT ≤ 3 holds in every BUSY state a run reaches; outside it no rule gives an effect
(log 8). -/
def iterate (s : State) : Answer :=
  if 3 < s.cnt.toNat then .fault .iterationPastEnd
  else
    match operate (recodePattern s.q s.qm1) s with
    | .next operated =>
      match shiftAll operated with
      | .next shifted => .next (completeIteration s shifted)
      | .fault f => .fault f
      | .refused r => .refused r
    | .fault f => .fault f
    | .refused r => .refused r

end Sys2Proof.Machine
end

