-- ==== Sys2Proof/Machine/Command.lean ====
section
/-! DEFINITION. The host's commands (R79, R168). -/

namespace Sys2Proof.Machine

/-- RESET (R210): in any phase, whatever the other ports carry (R211). -/
def execReset (_start : Bool) (_multiplicand _multiplier : Int) (s : State) : Answer := .next (resetState s)

/-- A MUL accepted for examination: CHECK, then INIT; RangeError is taken before anything is constructed (R141, R184). -/
def acceptMul (m r : Int) (s : State) : State :=
  match checkOperands m r with
  | .error e => takeRangeError e s
  | .ok () => initRun m r s

/-- MUL m, r (R141). In BUSY the command and its operands are ignored and the run continues (R166). -/
def execMul (m r : Int) (s : State) : Answer :=
  if s.phase = .busy then iterate s else .next (acceptMul m r s)

/-- NOCMD (R165): BUSY continues its run, the other phases hold. -/
def execNocmd (_multiplicand _multiplier : Int) (s : State) : Answer :=
  if s.phase = .busy then iterate s else .next s

end Sys2Proof.Machine
end

