-- ==== Sys2Proof/Machine/Dispatch.lean ====
section
/-! DEFINITION. The dispatch: one arm per constructor of Instr. -/

namespace Sys2Proof.Machine

def exec (i : Instr) (s : State) : Host.Outcome State Fault Refusal :=
  match i with
  | .nop00 => Sys2Proof.Machine.execNop00 s
  | .addM => Sys2Proof.Machine.execAddM s
  | .subM => Sys2Proof.Machine.execSubM s
  | .nop11 => Sys2Proof.Machine.execNop11 s
  | .reset start m r => Sys2Proof.Machine.execReset start m r s
  | .mul m r => Sys2Proof.Machine.execMul m r s
  | .nocmd m r => Sys2Proof.Machine.execNocmd m r s
  | .shr9 a q g => Sys2Proof.Machine.execShr9 a q g s
  | .enc4 v => Sys2Proof.Machine.execEnc4 v s
  | .dec4 b => Sys2Proof.Machine.execDec4 b s
  | .dec8 a q => Sys2Proof.Machine.execDec8 a q s
  | .sext48 b => Sys2Proof.Machine.execSext48 b s
  | .neg4 b => Sys2Proof.Machine.execNeg4 b s
  | .sra4 b => Sys2Proof.Machine.execSra4 b s
  | .addMod4 a b => Sys2Proof.Machine.execAddMod4 a b s
  | .lsb4 b => Sys2Proof.Machine.execLsb4 b s
  | .msb4 b => Sys2Proof.Machine.execMsb4 b s
  | .concat44 a b => Sys2Proof.Machine.execConcat44 a b s

end Sys2Proof.Machine
end

