-- ==== Sys2Proof/Machine/Step.lean ====
section
/-! DEFINITION. One step: a rising clock edge with the ports the host presents, or the evaluation of a driven
combinational instance (logs 4, 6, 9). -/

namespace Sys2Proof.Machine

/-- One step: fetch what is presented, and execute it. -/
def step (s : State) : Host.Outcome State Fault Refusal :=
  exec (fetch s).1 (fetch s).2

/-- `s` with a table word placed where the next step reads it (log 7). -/
def State.withFetchWord (s : State) (nbits w : Nat) : State :=
  match tableCode nbits w with
  | some c => placeCode c s
  | none => s

end Sys2Proof.Machine
end

