-- ==== Sys2Proof/Machine/Engine.lean ====
section
/-! DEFINITION. The block at level S, one iteration over `(A, Q, Qm1)`, and at level F, the function `engine` (R9, R156).
The cycle-level machine does not use these; statements relate the two (R157). -/

namespace Sys2Proof.Machine

/-- `A_op` of an iteration (R150): the accumulator after the selected operation. -/
def accumulatorOp (op : Op) (a m negm : Nib) : Nib :=
  match op with
  | .nop => a
  | .addM => addMod a m
  | .subM => addMod a negm

/-- One iteration of level S (R150, R156). -/
def boothNext (m negm : Nib) (b : BoothState) : BoothState :=
  shr9 (accumulatorOp (recodeOp (recodePattern b.q b.qm1)) b.a m negm) b.q b.qm1

/-- The state after `k` iterations of a run (R156): `S0` is the state of R43. -/
def boothAfter (m negm qinit : Nib) : Nat → BoothState
  | 0 => ⟨0#4, qinit, 0#1⟩
  | k + 1 => boothNext m negm (boothAfter m negm qinit k)

/-- The TraceStep of iteration `k + 1` of a run (R151, R156). -/
def boothStep (m negm qinit : Nib) (k : Nat) : TraceStep :=
  let pre := boothAfter m negm qinit k
  let post := boothAfter m negm qinit (k + 1)
  { idx := BitVec.ofNat 3 (k + 1)
    aPre := pre.a
    qPre := pre.q
    qm1Pre := pre.qm1
    pat := recodePattern pre.q pre.qm1
    op := recodeOp (recodePattern pre.q pre.qm1)
    aPost := post.a
    qPost := post.q
    qm1Post := post.qm1 }

/-- The RESULT of a run with these encodings (R155, R156). -/
def runResult (m negm qinit : Nib) : Result :=
  let final := boothAfter m negm qinit 4
  { productDec := dec8 (concat final.a final.q)
    productBin := concat final.a final.q
    trace := [boothStep m negm qinit 0, boothStep m negm qinit 1, boothStep m negm qinit 2, boothStep m negm qinit 3]
    m := m
    negM := negm
    qInitial := qinit }

/-- `engine(m, r)` (R156), total on all integers. -/
def engine (m r : Int) : Except RangeError Result :=
  match checkOperands m r with
  | .error e => .error e
  | .ok () => .ok (runResult (enc4Bits m) (neg4 (enc4Bits m)) (enc4Bits r))

end Sys2Proof.Machine
end

