-- ==== Sys2Proof/Machine/Views.lean ====
section
/-! DEFINITION. What the host reads (R37, R41). Reading changes nothing (R59), so a read is a function of the state; a read
of an output that holds no value is a fault of the model (R13, R217). -/

namespace Sys2Proof.Machine

/-- An output that holds a value only in DONE (R37). -/
def whenDone {α : Type} (v : View) (x : α) (s : State) : Except Fault α :=
  if s.phase = .done then .ok x else .error (.noValue v)

/-- An output that holds a value only in ERROR (R35). -/
def whenError {α : Type} (v : View) (x : α) (s : State) : Except Fault α :=
  if s.phase = .error then .ok x else .error (.noValue v)

/-- `product_bin = A ‖ Q` (R51, R153). -/
def productBin (s : State) : Except Fault Byte := whenDone .productBin (concat s.a s.q) s

/-- `product_dec = DEC_8(A ‖ Q)` (R154). -/
def productDec (s : State) : Except Fault Int := whenDone .productDec (dec8 (concat s.a s.q)) s

/-- `m_enc` (R37). -/
def mEnc (s : State) : Except Fault Nib := whenDone .mEnc s.m s

/-- `negm_enc` (R37). -/
def negmEnc (s : State) : Except Fault Nib := whenDone .negmEnc s.negm s

/-- `q_init` (R37). -/
def qInit (s : State) : Except Fault Nib := whenDone .qInit s.qinit s

/-- `trace_len = CNT`, readable in every phase (R37). -/
def traceLen (s : State) : BitVec 3 := s.cnt

/-- The TraceStep at `trace_idx`: in DONE, for an index from 1 to CNT (R39, D28). -/
def traceStep (idx : BitVec 3) (s : State) : Except Fault TraceStep :=
  if s.phase = .done ∧ idx.toNat ≤ s.cnt.toNat then
    match traceGet s.trace idx with
    | some t => .ok t
    | none => .error (.noValue .traceRec)
  else .error (.noValue .traceRec)

/-- `trace_rec`, the 25 bits of `TRACE[trace_idx]` (R41, R80). -/
def traceRec (idx : BitVec 3) (s : State) : Except Fault (BitVec 25) :=
  match traceStep idx s with
  | .ok t => .ok (packStep t)
  | .error f => .error f

/-- `err_value` (R35). -/
def errValue (s : State) : Except Fault Int := whenError .errValue s.errval s

/-- `err_src` (R35). -/
def errSrc (s : State) : Except Fault Bit := whenError .errSrc (whichBit s.errsrc) s

/-- `err_lo`, a constant (R34). -/
def errLo : Int := Config.vmin

/-- `err_hi`, a constant (R34). -/
def errHi : Int := Config.vmax

/-- The RESULT structure (R83). -/
def result (s : State) : Except Fault Result :=
  whenDone .productBin
    { productDec := dec8 (concat s.a s.q)
      productBin := concat s.a s.q
      trace := [s.trace.t1, s.trace.t2, s.trace.t3, s.trace.t4]
      m := s.m
      negM := s.negm
      qInitial := s.qinit } s

/-- The ERR structure (R84). -/
def errPayload (s : State) : Except Fault RangeError :=
  whenError .errValue ⟨s.errval, errLo, errHi, s.errsrc⟩ s

end Sys2Proof.Machine
end

