-- ==== Sys2Proof/Safety.lean ====
section
/-! DEFINITION. What a legal state is, and what a host can and cannot see in it: the terms the statements use. -/

namespace Sys2Proof.Safety

open Sys2Proof.Machine

/-- A run is in progress or has finished. -/
abbrev InRun (s : State) : Prop := s.phase = .busy ∨ s.phase = .done

/-- The counter a phase allows (R30, R220): 0 in IDLE and ERROR, 0 to 3 in BUSY, 4 in DONE. -/
def CounterLegal (s : State) : Prop :=
  match s.phase with
  | .idle => s.cnt = 0#3
  | .busy => s.cnt.toNat ≤ 3
  | .done => s.cnt = 4#3
  | .error => s.cnt = 0#3

/-- The invariant of the block: the counter is legal; a run's registers and its valid trace entries are those of CNT
iterations of level S from the initial state of R43; a latched error payload is an out-of-range operand. -/
structure Inv (s : State) : Prop where
  counter : CounterLegal s
  negm : InRun s → s.negm = neg4 s.m
  registers : InRun s → boothState s = boothAfter s.m s.negm s.qinit s.cnt.toNat
  trace : InRun s → ∀ k, k < s.cnt.toNat →
    traceGet s.trace (BitVec.ofNat 3 (k + 1)) = some (boothStep s.m s.negm s.qinit k)
  payload : s.phase = .error → ¬ OperandOk s.errval

/-- No result output holds a value (R37). -/
def NoResultVisible (s : State) : Prop :=
  productBin s = .error (.noValue .productBin) ∧ productDec s = .error (.noValue .productDec) ∧
  mEnc s = .error (.noValue .mEnc) ∧ negmEnc s = .error (.noValue .negmEnc) ∧
  qInit s = .error (.noValue .qInit) ∧ ∀ idx, traceRec idx s = .error (.noValue .traceRec)

/-- No error output holds a value (R35). -/
def NoErrorVisible (s : State) : Prop :=
  errValue s = .error (.noValue .errValue) ∧ errSrc s = .error (.noValue .errSrc)

/-- The host reads the same in both states, through every output port (R41). -/
def SameOutputs (s t : State) : Prop :=
  busy s = busy t ∧ done s = done t ∧ err s = err t ∧
  productBin s = productBin t ∧ productDec s = productDec t ∧
  mEnc s = mEnc t ∧ negmEnc s = negmEnc t ∧ qInit s = qInit t ∧
  traceLen s = traceLen t ∧ (∀ idx, traceRec idx s = traceRec idx t) ∧
  errValue s = errValue t ∧ errSrc s = errSrc t

/-- The host's next entries are rising edges with these ports, and then `rest`. -/
abbrev Presents (s : State) (ps : List Ports) (rest : List Stimulus) : Prop :=
  s.host = ps.map Stimulus.clock ++ rest

/-- `rst` is low in all of them. -/
abbrev NoReset (ps : List Ports) : Prop := ∀ p ∈ ps, p.rst = false

end Sys2Proof.Safety
end

