-- ==== Sys2Proof/Certificates/Slice0/Obligations.lean ====
section
/-! DEFINITION. The statements about the model, each formalising rules of `spec/`; `OBLIGATIONS.json` lists them. -/

open Sys2Proof Sys2Proof.Machine Sys2Proof.Safety

/-! ## Encoding -/

/-- R77, R78, R76 and the layouts of R71 to R75: decoding the word of a well-formed instruction gives it back.
The model's choices in it: logs 6 and 10. -/
def Obligations.DecodeOfEncode : Prop :=
  ∀ i : Instr, i.WellFormed → decode (encode i) = i

/-- R77: every word of every format is the word of the instruction it decodes to, which is well-formed: there is no
invalid word, and no bit of a word is dropped (log 10; the ENC_4 instance driven is kept too, log 12). -/
def Obligations.EncodeOfDecode : Prop :=
  ∀ c : Code, encode (decode c) = c ∧ (decode c).WellFormed

/-- R78, general column: at every port width, the CMD word and the port values determine each other. -/
def Obligations.CmdWordRoundTripAtEveryPortWidth : Prop :=
  (∀ (inW : Nat) (p : Ports), 1 ≤ inW → p.Fit inW → Ports.ofBits inW (Ports.toBits inW p) = p) ∧
  (∀ (inW : Nat) (w : BitVec (2 * inW + 2)), 1 ≤ inW →
    Ports.toBits inW (Ports.ofBits inW w) = w ∧ (Ports.ofBits inW w).Fit inW)

/-- R79: the decoding of a CMD word, by its bits 17 and 16; the operands are bits 15:8 and 7:0, signed (R78, R71).
That RESET and NOCMD carry them is the model's choice (log 10). -/
def Obligations.CommandWordsDecodeByTheirFirstTwoBits : Prop :=
  ∀ w : BitVec 18,
    (w.getLsbD 17 = true →
      decode (.cmd w) = .reset (w.getLsbD 16) (w.extractLsb' 8 8).toInt (w.extractLsb' 0 8).toInt) ∧
    (w.getLsbD 17 = false → w.getLsbD 16 = true →
      decode (.cmd w) = .mul (w.extractLsb' 8 8).toInt (w.extractLsb' 0 8).toInt) ∧
    (w.getLsbD 17 = false → w.getLsbD 16 = false →
      decode (.cmd w) = .nocmd (w.extractLsb' 8 8).toInt (w.extractLsb' 0 8).toInt)

/-- R76, and the CMD words of the programs P1 to P4 (`95_test_vectors.md` section 3): these words decode so. -/
def Obligations.PrintedWordsDecode : Prop :=
  decode (.rp2 0b00#2) = .nop00 ∧ decode (.rp2 0b01#2) = .addM ∧
  decode (.rp2 0b10#2) = .subM ∧ decode (.rp2 0b11#2) = .nop11 ∧
  decode (.cmd 0x20000#18) = .reset false 0 0 ∧
  decode (.cmd 0x10503#18) = .mul 5 3 ∧ decode (.cmd 0x1FD01#18) = .mul (-3) 1 ∧
  decode (.cmd 0x102EC#18) = .mul 2 (-20) ∧ decode (.cmd 0x1F8F8#18) = .mul (-8) (-8) ∧
  decode (.cmd 0x00000#18) = .nocmd 0 0 ∧
  decode (.shreg 0b110100110#9) = .shr9 0b1101#4 0b0011#4 0b0#1

/-- R74, R76, R77, R92: how every word of the other places decodes: by its pattern, or by its fields where the table's
encoding column has them. The ENC_4 instance driven tells which operand it encodes (log 12). -/
def Obligations.OtherWordsDecodeByTheirFields : Prop :=
  (∀ p : Pattern, decode (.rp2 p) =
    match p.getLsbD 1, p.getLsbD 0 with
    | false, false => .nop00
    | false, true => .addM
    | true, false => .subM
    | true, true => .nop11) ∧
  (∀ w : BitVec 9, decode (.shreg w) = .shr9 (w.extractLsb' 5 4) (w.extractLsb' 1 4) (w.extractLsb' 0 1)) ∧
  (∀ (k : Which) (w : Byte), decode (.wired (.enc4 k w)) = .enc4 ⟨k, w.toInt⟩) ∧
  (∀ w : Byte, decode (.wired (.dec8 w)) = .dec8 (w.extractLsb' 4 4) (w.extractLsb' 0 4) ∧
    decode (.wired (.addMod4 w)) = .addMod4 (w.extractLsb' 4 4) (w.extractLsb' 0 4) ∧
    decode (.wired (.concat44 w)) = .concat44 (w.extractLsb' 4 4) (w.extractLsb' 0 4)) ∧
  ∀ b : Nib, decode (.wired (.dec4 b)) = .dec4 b ∧ decode (.wired (.sext48 b)) = .sext48 b ∧
    decode (.wired (.neg4 b)) = .neg4 b ∧ decode (.wired (.sra4 b)) = .sra4 b ∧
    decode (.wired (.lsb4 b)) = .lsb4 b ∧ decode (.wired (.msb4 b)) = .msb4 b

/-- R80: where each field of a trace record lies in its 25 bits, and the `op` codes of R81. -/
def Obligations.TraceRecordLayout : Prop :=
  ∀ t : TraceStep,
    (packStep t).extractLsb' 22 3 = t.idx ∧ (packStep t).extractLsb' 18 4 = t.aPre ∧
    (packStep t).extractLsb' 14 4 = t.qPre ∧ (packStep t).extractLsb' 13 1 = t.qm1Pre ∧
    (packStep t).extractLsb' 11 2 = t.pat ∧
    (packStep t).extractLsb' 9 2 = (match t.op with | .nop => 0#2 | .addM => 1#2 | .subM => 2#2) ∧
    (packStep t).extractLsb' 5 4 = t.aPost ∧ (packStep t).extractLsb' 1 4 = t.qPost ∧
    (packStep t).extractLsb' 0 1 = t.qm1Post

/-- R80, V7: a packed record unpacks to itself, a record unpacks unless its `op` field is the reserved code 3, and then
packs to itself. -/
def Obligations.TraceRecordRoundTrip : Prop :=
  (∀ t : TraceStep, unpackStep (packStep t) = some t) ∧
  (∀ w : BitVec 25, w.extractLsb' 9 2 = 3#2 → unpackStep w = none) ∧
  (∀ w : BitVec 25, w.extractLsb' 9 2 ≠ 3#2 → ∃ t, unpackStep w = some t ∧ packStep t = w)

/-! ## The combinational functions, at every width -/

/-- R112 and R103: ENC_w is `v mod 2^w` in range, and outside it the error with the value and the bounds. -/
def Obligations.EncodeClosedForm : Prop :=
  ∀ (n : Nat) (v : Int),
    (-(2 ^ n) ≤ v ∧ v ≤ 2 ^ n - 1 → enc n v = .ok (BitVec.ofInt (n + 1) v)) ∧
    (v < -(2 ^ n) ∨ 2 ^ n - 1 < v → enc n v = .error ⟨v, -(2 ^ n), 2 ^ n - 1⟩)

/-- R111: both round trips of the codec, at every width. -/
def Obligations.CodecRoundTrip : Prop :=
  (∀ (n : Nat) (v : Int), -(2 ^ n) ≤ v → v ≤ 2 ^ n - 1 → ∃ b, enc n v = .ok b ∧ dec b = v) ∧
  (∀ (n : Nat) (b : BitVec (n + 1)), enc n (dec b) = .ok b)

/-- R104: DEC_w is the unsigned value less 2^w times the sign bit, and lies in the range of w bits. -/
def Obligations.DecodeIsTheSignedValue : Prop :=
  ∀ (n : Nat) (b : BitVec (n + 1)),
    dec b = (b.toNat : Int) - 2 ^ (n + 1) * (if b.getLsbD n then 1 else 0) ∧
    -(2 ^ n) ≤ dec b ∧ dec b ≤ 2 ^ n - 1

/-- R107: SEXT_w_t pads with copies of the sign bit, keeps the low bits and the value. -/
def Obligations.SignExtensionKeepsBitsAndValue : Prop :=
  ∀ (n t : Nat) (h : n + 1 ≤ t + 1) (b : BitVec (n + 1)),
    (∀ i, i ≤ n → (sext h b).getLsbD i = b.getLsbD i) ∧
    (∀ i, n < i → i ≤ t → (sext h b).getLsbD i = b.getLsbD n) ∧ dec (sext h b) = dec b

/-- R109, R110, R113: NEG_4 is (16 - u) mod 16, an involution, with the two fixed points `0000` and `1000`. -/
def Obligations.NegationOfANibble : Prop :=
  ∀ b : Nib, (neg4 b).toNat = (16 - b.toNat) % 16 ∧ neg4 (neg4 b) = b ∧
    (neg4 b = b ↔ b = 0b0000#4 ∨ b = 0b1000#4) ∧ (b ≠ 0b1000#4 → dec4 (neg4 b) = -dec4 b)

/-- R120, R121: SRA_w halves toward minus infinity and keeps the sign bit. -/
def Obligations.ArithmeticShiftHalvesAndKeepsTheSign : Prop :=
  ∀ (n : Nat) (b : BitVec (n + 1)), dec (sra b) = dec b / 2 ∧ msb (sra b) = msb b

/-- R123: SHR9 is the 9-bit arithmetic shift of the concatenation. -/
def Obligations.CombinedShiftIsOneNineBitShift : Prop :=
  ∀ (a q : Nib) (g : Bit),
    ((shr9 a q g).a ++ (shr9 a q g).q ++ (shr9 a q g).qm1 : BitVec 9) =
      sra (n := 8) (a ++ q ++ g : BitVec 9)

/-! ## What each instruction does -/

/-- R145, R148: the two NOPs complete and change nothing; the shift of the iteration is SHR9's (log 3). -/
def Obligations.NoOperationChangesNothing : Prop :=
  ∀ s : State, exec .nop00 s = .next s ∧ exec .nop11 s = .next s

/-- R146: ADD_M adds `M` to `A` modulo 16 and changes nothing else; the carry is recorded nowhere (R32).
That the sum is written into `A` is the model's reading (log 3). -/
def Obligations.AddMAddsModulo16 : Prop :=
  ∀ s : State, exec .addM s = .next { s with a := BitVec.ofNat 4 ((s.a.toNat + s.m.toNat) % 16) }

/-- R147: SUB_M adds `NEGM` to `A` modulo 16 and changes nothing else (log 3, as for ADD_M). -/
def Obligations.SubMAddsNegmModulo16 : Prop :=
  ∀ s : State, exec .subM s = .next { s with a := BitVec.ofNat 4 ((s.a.toNat + s.negm.toNat) % 16) }

/-- R122, R57: SHR9 writes `A`, `Q`, `Qm1` together, each from the values before the shift, and nothing else. -/
def Obligations.CombinedShiftWritesThreeRegisters : Prop :=
  ∀ (a q : Nib) (g : Bit) (s : State), ∃ t, exec (.shr9 a q g) s = .next t ∧
    t = { s with a := t.a, q := t.q, qm1 := t.qm1 } ∧
    t.qm1.getLsbD 0 = q.getLsbD 0 ∧
    (t.q.getLsbD 3 = a.getLsbD 0 ∧ t.q.getLsbD 2 = q.getLsbD 3 ∧ t.q.getLsbD 1 = q.getLsbD 2 ∧
      t.q.getLsbD 0 = q.getLsbD 1) ∧
    (t.a.getLsbD 3 = a.getLsbD 3 ∧ t.a.getLsbD 2 = a.getLsbD 3 ∧ t.a.getLsbD 1 = a.getLsbD 2 ∧
      t.a.getLsbD 0 = a.getLsbD 1)

/-- R100, R102, R103: ENC_4 answers the bits of a value in [-8, 7], and otherwise `range_err` with the payload of R84:
the value, -8, 7 and `which`; no register changes. The port shows it (log 6). That `which` is the operand whose ENC_4
instance is driven is the model's reading of R84 and R100 (log 12). -/
def Obligations.EncoderAnswers : Prop :=
  ∀ (k : Which) (v : Int) (s : State),
    (-8 ≤ v ∧ v ≤ 7 → exec (.enc4 ⟨k, v⟩) s = .next { s with unitOut := .enc4 (BitVec.ofInt 4 v) }) ∧
    (v < -8 ∨ 7 < v → exec (.enc4 ⟨k, v⟩) s = .next { s with unitOut := .enc4RangeErr ⟨v, -8, 7, k⟩ })

/-- R105, R106, R107, R109: DEC_4, DEC_8, SEXT_4_8 and NEG_4 answer on the unit's ports (log 6); no register
changes. -/
def Obligations.CodecFunctionsAnswer : Prop :=
  ∀ (b a q : Nib) (s : State),
    exec (.dec4 b) s = .next { s with unitOut := .dec4 b.toInt } ∧
    exec (.dec8 a q) s = .next { s with unitOut := .dec8 (a ++ q).toInt } ∧
    exec (.sext48 b) s = .next { s with unitOut := .sext48 (b.signExtend 8) } ∧
    exec (.neg4 b) s = .next { s with unitOut := .neg4 (BitVec.ofNat 4 ((16 - b.toNat) % 16)) }

/-- R120, R124, R125: SRA_4, LSB_4 and MSB_4 answer on the unit's ports (log 6); no register changes. -/
def Obligations.ShifterAndBitSelectorsAnswer : Prop :=
  ∀ (b : Nib) (s : State),
    exec (.sra4 b) s = .next { s with unitOut := .sra4 (b.sshiftRight 1) } ∧
    exec (.lsb4 b) s = .next { s with unitOut := .lsb4 (BitVec.ofBool (b.getLsbD 0)) } ∧
    exec (.msb4 b) s = .next { s with unitOut := .msb4 (BitVec.ofBool (b.getLsbD 3)) }

/-- R126, R149: CONCAT_4_4 and ADD_MOD_4 answer on the unit's ports (log 6); no register changes. -/
def Obligations.ConcatenatorAndAdderAnswer : Prop :=
  ∀ (a b : Nib) (s : State),
    exec (.concat44 a b) s = .next { s with unitOut := .concat44 (BitVec.ofNat 8 (a.toNat * 16 + b.toNat)) } ∧
    exec (.addMod4 a b) s = .next { s with unitOut := .addMod4 (BitVec.ofNat 4 ((a.toNat + b.toNat) % 16)) }

/-- R210, R211: RESET completes in every phase; it gives IDLE with CNT 0 and no output with a value, whatever `start` and
the operand ports carry. What the registers hold is free (log 2), so nothing is said of it. -/
def Obligations.ResetCommandClearsEverythingVisible : Prop :=
  ∀ s : State, ∃ t : State, (∀ (start : Bool) (m r : Int), exec (.reset start m r) s = .next t) ∧
    t.phase = .idle ∧ t.cnt = 0#3 ∧ busy t = false ∧ done t = false ∧ err t = false ∧
    NoResultVisible t ∧ NoErrorVisible t ∧ t.host = s.host ∧ t.unitOut = s.unitOut

/-- R141, R143, R109: with both operands in range, a MUL outside BUSY writes exactly the initial state of a run. NEGM is
NEG_4 of M, the 4 bits of -m. That TRACE, ERRVAL and ERRSRC keep their old contents, unreadable, is read from R27 and R56
(log 15). -/
def Obligations.AcceptedMulInitialisesTheRun : Prop :=
  ∀ (s : State) (m r : Int), s.phase ≠ .busy → -8 ≤ m → m ≤ 7 → -8 ≤ r → r ≤ 7 →
    exec (.mul m r) s = .next
      { s with
        m := BitVec.ofInt 4 m
        negm := BitVec.ofInt 4 (-m)
        qinit := BitVec.ofInt 4 r
        a := 0#4
        q := BitVec.ofInt 4 r
        qm1 := 0#1
        cnt := 0#3
        phase := .busy }

/-- R142, R188, R187: with the multiplicand out of range, or in range and the multiplier out of range, a MUL outside BUSY
takes RangeError: ERRVAL, ERRSRC, CNT and PHASE are written and nothing else, and the payload the host then reads is the
operand, -8, 7 and which operand it is: `err_src` is 0 for the multiplicand and 1 for the multiplier (R35). -/
def Obligations.OutOfRangeMulTakesRangeError : Prop :=
  ∀ (s : State) (m r : Int), s.phase ≠ .busy →
    (m < -8 ∨ 7 < m → ∃ t, exec (.mul m r) s = .next t ∧
      t = { s with errval := m, errsrc := .multiplicand, cnt := 0#3, phase := .error } ∧
      errPayload t = .ok ⟨m, -8, 7, .multiplicand⟩ ∧ errValue t = .ok m ∧ errSrc t = .ok 0#1) ∧
    (-8 ≤ m ∧ m ≤ 7 → r < -8 ∨ 7 < r → ∃ t, exec (.mul m r) s = .next t ∧
      t = { s with errval := r, errsrc := .multiplier, cnt := 0#3, phase := .error } ∧
      errPayload t = .ok ⟨r, -8, 7, .multiplier⟩ ∧ errValue t = .ok r ∧ errSrc t = .ok 1#1)

/-- R184, R182: after a failing MUL the host reads the payload and no result. -/
def Obligations.FailingMulShowsItsPayloadOnly : Prop :=
  ∀ (s : State) (m r : Int), s.phase ≠ .busy → (m < -8 ∨ 7 < m ∨ r < -8 ∨ 7 < r) →
    ∃ t e, exec (.mul m r) s = .next t ∧ engine m r = .error e ∧ errPayload t = .ok e ∧
      e.lo = -8 ∧ e.hi = 7 ∧ (e.value = m ∧ e.which = .multiplicand ∨ e.value = r ∧ e.which = .multiplier) ∧
      (e.value < -8 ∨ 7 < e.value) ∧ NoResultVisible t ∧ traceLen t = 0#3

/-- R166: a MUL in BUSY is ignored: it does what NOCMD does, whatever the operands. -/
def Obligations.MulDuringARunIsIgnored : Prop :=
  ∀ (s : State) (m r x y : Int), s.phase = .busy → exec (.mul m r) s = exec (.nocmd x y) s

/-- R165: NOCMD outside BUSY changes no register. -/
def Obligations.NoCommandHolds : Prop :=
  ∀ (s : State) (x y : Int), s.phase ≠ .busy → exec (.nocmd x y) s = .next s

/-- R150, R151, R152, R146, R147: NOCMD (and by R166 MUL) in BUSY with CNT at most 3 completes one iteration: the new
registers, the record at CNT + 1, CNT, and DONE after the fourth; nothing else changes. -/
def Obligations.IterationResult : Prop :=
  ∀ (s : State) (x y : Int), s.phase = .busy → s.cnt.toNat ≤ 3 →
    ∃ (aOp : Nib) (op : Op),
      (s.q.getLsbD 0 = s.qm1.getLsbD 0 → aOp = s.a ∧ op = .nop) ∧
      (s.q.getLsbD 0 = false → s.qm1.getLsbD 0 = true → aOp = s.a + s.m ∧ op = .addM) ∧
      (s.q.getLsbD 0 = true → s.qm1.getLsbD 0 = false → aOp = s.a + s.negm ∧ op = .subM) ∧
      exec (.nocmd x y) s = .next
        { s with
          a := aOp.sshiftRight 1
          q := aOp.extractLsb' 0 1 ++ s.q.extractLsb' 1 3
          qm1 := s.q.extractLsb' 0 1
          cnt := s.cnt + 1#3
          phase := if s.cnt = 3#3 then .done else .busy
          trace := traceSet s.trace (s.cnt + 1#3)
            { idx := s.cnt + 1#3
              aPre := s.a
              qPre := s.q
              qm1Pre := s.qm1
              pat := s.q.extractLsb' 0 1 ++ s.qm1
              op := op
              aPost := aOp.sshiftRight 1
              qPost := aOp.extractLsb' 0 1 ++ s.q.extractLsb' 1 3
              qm1Post := s.q.extractLsb' 0 1 } }

/-- Log 8: in BUSY with CNT above 3, which no run reaches (R30, V8), MUL and NOCMD stop by name. -/
def Obligations.IterationPastTheEndStops : Prop :=
  ∀ (s : State) (m r : Int), s.phase = .busy → 3 < s.cnt.toNat →
    exec (.mul m r) s = .fault .iterationPastEnd ∧ exec (.nocmd m r) s = .fault .iterationPastEnd

/-! ## The step -/

/-- R79, R168 (logs 4, 6): a step executes the instruction decoded from what the host presents, with that entry taken;
with nothing presented it is NOCMD. -/
def Obligations.StepRunsThePresentedInstruction : Prop :=
  ∀ s : State,
    (s.host = [] → step s = exec (.nocmd 0 0) s) ∧
    (∀ p rest, s.host = .clock p :: rest → step s = exec p.command { s with host := rest }) ∧
    (∀ u rest, s.host = .drive u :: rest → step s = exec (decode (.wired u)) { s with host := rest }) ∧
    (∀ w, decode (.cmd w) = (Ports.ofBits Config.inW w).command)

/-- R150, R65 (log 3): an iteration executes the instruction decoded from the pattern `Q[0] ‖ Qm1`, then SHR9 on the
registers that leaves, then records and advances (`completeIteration`). -/
def Obligations.IterationRunsTheDecodedPattern : Prop :=
  ∀ (s : State) (x y : Int), s.phase = .busy → s.cnt.toNat ≤ 3 →
    ∃ s1 s2, exec (decode (.rp2 (s.q.extractLsb' 0 1 ++ s.qm1))) s = .next s1 ∧
      exec (.shr9 s1.a s1.q s1.qm1) s1 = .next s2 ∧
      exec (.nocmd x y) s = .next (completeIteration s s2)

/-- R168: the phase machine: one step with these ports on the command ports completes, in this next phase. -/
def Obligations.PhaseMachine : Prop :=
  ∀ (s : State) (p : Ports) (rest : List Stimulus), CounterLegal s → s.host = .clock p :: rest →
    ∃ t, step s = .next t ∧ t.phase =
      (if p.rst = true then .idle
       else if s.phase = .busy then (if s.cnt = 3#3 then .done else .busy)
       else if p.start = true then
         (if (-8 ≤ p.multiplicand ∧ p.multiplicand ≤ 7) ∧ (-8 ≤ p.multiplier ∧ p.multiplier ≤ 7) then .busy
          else .error)
       else s.phase)

/-! ## Frames over all instructions -/

/-- R24, R25, R26, R35, R27: `M`, `NEGM`, `QINIT`, `ERRVAL` and `ERRSRC` are written by no instruction but MUL and RESET;
MUL writes them only outside BUSY. -/
def Obligations.OnlyMulAndResetWriteTheRunConstants : Prop :=
  ∀ (i : Instr) (s t : State), exec i s = .next t →
    (∀ start m r, i ≠ .reset start m r) → ((∀ m r, i ≠ .mul m r) ∨ s.phase = .busy) →
    t.m = s.m ∧ t.negm = s.negm ∧ t.qinit = s.qinit ∧ t.errval = s.errval ∧ t.errsrc = s.errsrc

/-- R100, R127: a wired function's instruction completes and changes no register of the block, whatever the state
(log 6). -/
def Obligations.WiredFunctionsTouchNoRegister : Prop :=
  ∀ (u : UnitInput) (s : State), ∃ o, exec (decode (.wired u)) s = .next { s with unitOut := o }

/-- R36: the trace is append-only: outside RESET no instruction changes an entry at or below CNT, and an entry that
changes is the one at CNT + 1, in BUSY. -/
def Obligations.TraceIsAppendOnly : Prop :=
  ∀ (i : Instr) (s t : State) (j : BitVec 3), exec i s = .next t → (∀ start m r, i ≠ .reset start m r) →
    traceGet t.trace j ≠ traceGet s.trace j → s.phase = .busy ∧ j = s.cnt + 1#3 ∧ t.cnt = s.cnt + 1#3

/-- R190: the error state is left by no instruction but MUL and RESET, and until then its payload stands. -/
def Obligations.ErrorIsLeftOnlyByMulOrReset : Prop :=
  ∀ (i : Instr) (s t : State), s.phase = .error → exec i s = .next t →
    (∀ start m r, i ≠ .reset start m r) → (∀ m r, i ≠ .mul m r) →
    t.phase = .error ∧ errPayload t = errPayload s

/-- R45, R58: no step leaves `A_op` in `A`: outside MUL's zero and RESET, a step either keeps `A`, `Q`, `Qm1` or replaces
all three by their shifted values. -/
def Obligations.StepsNeverStopBetweenAddAndShift : Prop :=
  ∀ s t : State, step s = .next t → t.phase ≠ .idle →
    boothState t = boothState s ∨ boothState t = boothNext s.m s.negm (boothState s) ∨
    (boothState t = ⟨0#4, t.qinit, 0#1⟩ ∧ t.phase = .busy ∧ t.cnt = 0#3)

/-! ## Reset and the invariant -/

/-- R42: the state after reset is IDLE with CNT 0, the flags 0 and no output with a value. -/
def Obligations.ResetStateShowsNothing : Prop :=
  State.reset.phase = .idle ∧ State.reset.cnt = 0#3 ∧ busy State.reset = false ∧ done State.reset = false ∧
  err State.reset = false ∧ NoResultVisible State.reset ∧ NoErrorVisible State.reset

/-- The invariant holds after reset. -/
def Obligations.ResetMeetsInvariant : Prop := Inv State.reset

/-- R30, R36, R152, R150: every step keeps the invariant: the counter is legal, and a run's registers and valid trace
entries are those of CNT iterations from its initial state. -/
def Obligations.StepKeepsInvariant : Prop :=
  ∀ s t : State, Inv s → step s = .next t → Inv t

/-- R77, R183, R220: from a state of the invariant every step completes: no fault, no refusal, no stuck state. -/
def Obligations.StepsFromTheInvariantComplete : Prop :=
  ∀ s : State, Inv s → ∃ t, step s = .next t

/-! ## Whole runs -/

/-- R157, R215: from any state outside BUSY, a MUL and four more edges without reset, whatever else the ports carry, give
what `engine` gives; a MUL that raises gives its error at once. -/
def Obligations.RunMatchesEngine : Prop :=
  ∀ (s : State) (m r : Int) (ps : List Ports) (rest : List Stimulus),
    s.phase ≠ .busy → NoReset ps → ps.length = 4 → Presents s (⟨false, true, m, r⟩ :: ps) rest →
    (∀ e, engine m r = .error e → ∃ t, step s = .next t ∧ t.phase = .error ∧ errPayload t = .ok e) ∧
    (∀ res, engine m r = .ok res → ∃ t, Host.Core.run core 5 s = .next t ∧ t.phase = .done ∧ t.host = rest ∧
      result t = .ok res)

/-- R220: a run in BUSY, at any legal count, reaches DONE after its remaining edges without reset. -/
def Obligations.BusyReachesDone : Prop :=
  ∀ (s : State) (ps : List Ports) (rest : List Stimulus),
    s.phase = .busy → s.cnt.toNat ≤ 3 → NoReset ps → ps.length = 4 - s.cnt.toNat → Presents s ps rest →
    ∃ t, Host.Core.run core ps.length s = .next t ∧ t.phase = .done ∧ t.cnt = 4#3 ∧ t.host = rest ∧
      t.m = s.m ∧ t.negm = s.negm ∧ t.qinit = s.qinit

/-- R40, R66: runs are isolated: after the same accepted MUL and equally many edges without reset, up to the end of the run,
two blocks show the same outputs, whatever they held before and whatever the ports carried meanwhile. -/
def Obligations.RunsAreIsolated : Prop :=
  ∀ (s s' : State) (m r : Int) (ps ps' : List Ports) (rest rest' : List Stimulus),
    s.phase ≠ .busy → s'.phase ≠ .busy → OperandOk m → OperandOk r →
    NoReset ps → NoReset ps' → ps.length ≤ 4 → ps'.length = ps.length →
    Presents s (⟨false, true, m, r⟩ :: ps) rest → Presents s' (⟨false, true, m, r⟩ :: ps') rest' →
    ∃ t t', Host.Core.run core (ps.length + 1) s = .next t ∧ Host.Core.run core (ps.length + 1) s' = .next t' ∧
      SameOutputs t t'

/-- R165, D17: without a command IDLE, DONE and ERROR persist for any number of edges. -/
def Obligations.QuietPhasesPersist : Prop :=
  ∀ (k : Nat) (s : State), s.phase ≠ .busy → s.host = [] → Host.Core.run core k s = .next s

/-! ## The engine -/

/-- R156, R180: `engine` returns a RESULT exactly when both operands are in [-8, 7]. -/
def Obligations.EngineRaisesExactlyOutOfRange : Prop :=
  ∀ m r : Int, (∃ res, engine m r = .ok res) ↔ (-8 ≤ m ∧ m ≤ 7) ∧ (-8 ≤ r ∧ r ≤ 7)

/-- R158: for a multiplicand in [-7, 7], and for -8 × 0, the product is exact. -/
def Obligations.EngineIsExactForMultiplicandsAboveMinus8 : Prop :=
  ∀ m r : Int, -8 ≤ m → m ≤ 7 → -8 ≤ r → r ≤ 7 → (m = -8 → r = 0) →
    ∃ res, engine m r = .ok res ∧ res.productDec = m * r ∧ enc 7 (m * r) = .ok res.productBin

/-- R159: for the multiplicand -8 the product is 8 × r. -/
def Obligations.EngineNegatesTheProductAtMinus8 : Prop :=
  ∀ r : Int, -8 ≤ r → r ≤ 7 → ∃ res, engine (-8) r = .ok res ∧ res.productDec = 8 * r ∧
    enc 7 (8 * r) = .ok res.productBin

/-- R160: for a multiplicand in [-7, 7] no add of a run overflows; for -8 and r ≠ 0 some add wraps. -/
def Obligations.AddsOverflowOnlyAtMinus8 : Prop :=
  (∀ (m r : Int) (k : Nat), -7 ≤ m → m ≤ 7 → -8 ≤ r → r ≤ 7 → k < 4 →
    let b := boothAfter (enc4Bits m) (neg4 (enc4Bits m)) (enc4Bits r) k
    let op := recodeOp (recodePattern b.q b.qm1)
    dec4 (accumulatorOp op b.a (enc4Bits m) (neg4 (enc4Bits m))) =
      dec4 b.a + (match op with | .nop => 0 | .addM => m | .subM => -m)) ∧
  (∀ r : Int, -8 ≤ r → r ≤ 7 → r ≠ 0 → ∃ k, k < 4 ∧
    let b := boothAfter (enc4Bits (-8)) (neg4 (enc4Bits (-8))) (enc4Bits r) k
    let op := recodeOp (recodePattern b.q b.qm1)
    dec4 (accumulatorOp op b.a (enc4Bits (-8)) (neg4 (enc4Bits (-8)))) ≠
      dec4 b.a + (match op with | .nop => 0 | .addM => -8 | .subM => 8))

/-- R161, R65: the patterns of a run are functions of the multiplier's bits alone: `r0 ‖ 0`, then `r_k ‖ r_(k-1)`. -/
def Obligations.PatternsDependOnTheMultiplierAlone : Prop :=
  ∀ (m negm q : Nib),
    recodePattern (boothAfter m negm q 0).q (boothAfter m negm q 0).qm1 = q.extractLsb' 0 1 ++ 0#1 ∧
    ∀ k, 1 ≤ k → k ≤ 3 →
      recodePattern (boothAfter m negm q k).q (boothAfter m negm q k).qm1 = q.extractLsb' (k - 1) 2

/-- R162: in every iteration of level S the new sign of `A` is that of the accumulator after the operation; after a NOP it
is the old sign. -/
def Obligations.ShiftPreservesTheSign : Prop :=
  ∀ (m negm : Nib) (b : BoothState),
    (boothNext m negm b).a.getLsbD 3 =
      (accumulatorOp (recodeOp (recodePattern b.q b.qm1)) b.a m negm).getLsbD 3 ∧
    (b.q.getLsbD 0 = b.qm1.getLsbD 0 → (boothNext m negm b).a.getLsbD 3 = b.a.getLsbD 3)

/-- R163: with r = 0 the registers stay zero throughout; with m = 0 the accumulator does, for every number of
iterations. -/
def Obligations.ZeroOperandsKeepTheAccumulatorZero : Prop :=
  (∀ (m negm : Nib) (k : Nat), boothAfter m negm 0#4 k = ⟨0#4, 0#4, 0#1⟩) ∧
  (∀ (q : Nib) (k : Nat), (boothAfter 0#4 0#4 q k).a = 0#4)

/-- R167: every product lies in [-64, 56]. -/
def Obligations.ProductNeverOverflows : Prop :=
  ∀ (m r : Int) (res : Result), engine m r = .ok res → -64 ≤ res.productDec ∧ res.productDec ≤ 56

/-- R171: the laws of the trace of a successful run. -/
def Obligations.TraceLaws : Prop :=
  ∀ (m r : Int) (res : Result), engine m r = .ok res →
    ∃ t1 t2 t3 t4 : TraceStep, res.trace = [t1, t2, t3, t4] ∧
      (t1.idx = 1#3 ∧ t2.idx = 2#3 ∧ t3.idx = 3#3 ∧ t4.idx = 4#3) ∧
      (t1.aPre = 0#4 ∧ t1.qPre = res.qInitial ∧ t1.qm1Pre = 0#1) ∧
      (t2.aPre = t1.aPost ∧ t2.qPre = t1.qPost ∧ t2.qm1Pre = t1.qm1Post) ∧
      (t3.aPre = t2.aPost ∧ t3.qPre = t2.qPost ∧ t3.qm1Pre = t2.qm1Post) ∧
      (t4.aPre = t3.aPost ∧ t4.qPre = t3.qPost ∧ t4.qm1Pre = t3.qm1Post) ∧
      res.productBin = t4.aPost ++ t4.qPost ∧
      (t4.qPost.getLsbD 0 = (accumulatorOp t1.op t1.aPre res.m res.negM).getLsbD 0 ∧
        t4.qPost.getLsbD 1 = (accumulatorOp t2.op t2.aPre res.m res.negM).getLsbD 0 ∧
        t4.qPost.getLsbD 2 = (accumulatorOp t3.op t3.aPre res.m res.negM).getLsbD 0 ∧
        t4.qPost.getLsbD 3 = (accumulatorOp t4.op t4.aPre res.m res.negM).getLsbD 0) ∧
      (t1.qm1Post = res.qInitial.extractLsb' 0 1 ∧ t2.qm1Post = res.qInitial.extractLsb' 1 1 ∧
        t3.qm1Post = res.qInitial.extractLsb' 2 1 ∧ t4.qm1Post = res.qInitial.extractLsb' 3 1)

/-! ## What the host reads -/

/-- R37, R35, R217: outside DONE no result output holds a value, outside ERROR no error output does. -/
def Obligations.OutputsHoldNoValueOutsideTheirPhase : Prop :=
  ∀ s : State, (s.phase ≠ .done → NoResultVisible s) ∧ (s.phase ≠ .error → NoErrorVisible s)

/-- R37, R51, R153, R154: in DONE the result outputs are these functions of the registers. R34, R35, R41: in ERROR
`err_value` is ERRVAL and `err_src` is 0 for the multiplicand and 1 for the multiplier; the bounds are constants. -/
def Obligations.OutputsInTheirPhase : Prop :=
  (∀ s : State, s.phase = .error →
    errValue s = .ok s.errval ∧ (s.errsrc = .multiplicand → errSrc s = .ok 0#1) ∧
    (s.errsrc = .multiplier → errSrc s = .ok 1#1) ∧ errPayload s = .ok ⟨s.errval, -8, 7, s.errsrc⟩) ∧
  (errLo = -8 ∧ errHi = 7) ∧
  ∀ s : State, s.phase = .done →
    productBin s = .ok (s.a ++ s.q) ∧ productDec s = .ok (s.a ++ s.q).toInt ∧ mEnc s = .ok s.m ∧
    negmEnc s = .ok s.negm ∧ qInit s = .ok s.qinit ∧ traceLen s = s.cnt

/-- R39, D28: in DONE with CNT = 4 a trace record is read at the indices 1 to 4 and at no other; outside DONE at none. -/
def Obligations.TraceIsReadAtItsIndices : Prop :=
  (∀ (s : State) (idx : BitVec 3), s.phase = .done → s.cnt = 4#3 →
    ((1 ≤ idx.toNat ∧ idx.toNat ≤ 4) → ∃ t, traceGet s.trace idx = some t ∧ traceRec idx s = .ok (packStep t)) ∧
    ((idx.toNat = 0 ∨ 4 < idx.toNat) → traceRec idx s = .error (.noValue .traceRec))) ∧
  (∀ (s : State) (idx : BitVec 3), s.phase ≠ .done → traceRec idx s = .error (.noValue .traceRec))

/-- R33: each flag is its phase, at most one is 1, all three are 0 exactly in IDLE, and 0 after reset. -/
def Obligations.AtMostOneFlag : Prop :=
  (∀ s : State, (busy s = true ↔ s.phase = .busy) ∧ (done s = true ↔ s.phase = .done) ∧
    (err s = true ↔ s.phase = .error) ∧
    ¬ (busy s = true ∧ done s = true) ∧ ¬ (busy s = true ∧ err s = true) ∧ ¬ (done s = true ∧ err s = true) ∧
    ((busy s = false ∧ done s = false ∧ err s = false) ↔ s.phase = .idle)) ∧
  (busy State.reset = false ∧ done State.reset = false ∧ err State.reset = false)
end

