-- ==== Sys2Proof/Laws/State.lean ====
section
/-! SUPPORT. What each update of the state does to each field: one lemma per field per update. -/

namespace Sys2Proof.Machine

open Sys2Proof

/-! `setA` -/

@[simp] theorem setA_a (v : Nib) (s : State) : (setA v s).a = v := rfl
@[simp] theorem setA_q (v : Nib) (s : State) : (setA v s).q = s.q := rfl
@[simp] theorem setA_qm1 (v : Nib) (s : State) : (setA v s).qm1 = s.qm1 := rfl
@[simp] theorem setA_m (v : Nib) (s : State) : (setA v s).m = s.m := rfl
@[simp] theorem setA_negm (v : Nib) (s : State) : (setA v s).negm = s.negm := rfl
@[simp] theorem setA_qinit (v : Nib) (s : State) : (setA v s).qinit = s.qinit := rfl
@[simp] theorem setA_cnt (v : Nib) (s : State) : (setA v s).cnt = s.cnt := rfl
@[simp] theorem setA_phase (v : Nib) (s : State) : (setA v s).phase = s.phase := rfl
@[simp] theorem setA_errval (v : Nib) (s : State) : (setA v s).errval = s.errval := rfl
@[simp] theorem setA_errsrc (v : Nib) (s : State) : (setA v s).errsrc = s.errsrc := rfl
@[simp] theorem setA_trace (v : Nib) (s : State) : (setA v s).trace = s.trace := rfl
@[simp] theorem setA_host (v : Nib) (s : State) : (setA v s).host = s.host := rfl
@[simp] theorem setA_unitOut (v : Nib) (s : State) : (setA v s).unitOut = s.unitOut := rfl
@[simp] theorem setA_free (v : Nib) (s : State) : (setA v s).free = s.free := rfl

/-! `setBooth` -/

@[simp] theorem setBooth_a (b : BoothState) (s : State) : (setBooth b s).a = b.a := rfl
@[simp] theorem setBooth_q (b : BoothState) (s : State) : (setBooth b s).q = b.q := rfl
@[simp] theorem setBooth_qm1 (b : BoothState) (s : State) : (setBooth b s).qm1 = b.qm1 := rfl
@[simp] theorem setBooth_m (b : BoothState) (s : State) : (setBooth b s).m = s.m := rfl
@[simp] theorem setBooth_negm (b : BoothState) (s : State) : (setBooth b s).negm = s.negm := rfl
@[simp] theorem setBooth_qinit (b : BoothState) (s : State) : (setBooth b s).qinit = s.qinit := rfl
@[simp] theorem setBooth_cnt (b : BoothState) (s : State) : (setBooth b s).cnt = s.cnt := rfl
@[simp] theorem setBooth_phase (b : BoothState) (s : State) : (setBooth b s).phase = s.phase := rfl
@[simp] theorem setBooth_errval (b : BoothState) (s : State) : (setBooth b s).errval = s.errval := rfl
@[simp] theorem setBooth_errsrc (b : BoothState) (s : State) : (setBooth b s).errsrc = s.errsrc := rfl
@[simp] theorem setBooth_trace (b : BoothState) (s : State) : (setBooth b s).trace = s.trace := rfl
@[simp] theorem setBooth_host (b : BoothState) (s : State) : (setBooth b s).host = s.host := rfl
@[simp] theorem setBooth_unitOut (b : BoothState) (s : State) : (setBooth b s).unitOut = s.unitOut := rfl
@[simp] theorem setBooth_free (b : BoothState) (s : State) : (setBooth b s).free = s.free := rfl

/-! `setUnitOut` -/

@[simp] theorem setUnitOut_a (o : UnitOut) (s : State) : (setUnitOut o s).a = s.a := rfl
@[simp] theorem setUnitOut_q (o : UnitOut) (s : State) : (setUnitOut o s).q = s.q := rfl
@[simp] theorem setUnitOut_qm1 (o : UnitOut) (s : State) : (setUnitOut o s).qm1 = s.qm1 := rfl
@[simp] theorem setUnitOut_m (o : UnitOut) (s : State) : (setUnitOut o s).m = s.m := rfl
@[simp] theorem setUnitOut_negm (o : UnitOut) (s : State) : (setUnitOut o s).negm = s.negm := rfl
@[simp] theorem setUnitOut_qinit (o : UnitOut) (s : State) : (setUnitOut o s).qinit = s.qinit := rfl
@[simp] theorem setUnitOut_cnt (o : UnitOut) (s : State) : (setUnitOut o s).cnt = s.cnt := rfl
@[simp] theorem setUnitOut_phase (o : UnitOut) (s : State) : (setUnitOut o s).phase = s.phase := rfl
@[simp] theorem setUnitOut_errval (o : UnitOut) (s : State) : (setUnitOut o s).errval = s.errval := rfl
@[simp] theorem setUnitOut_errsrc (o : UnitOut) (s : State) : (setUnitOut o s).errsrc = s.errsrc := rfl
@[simp] theorem setUnitOut_trace (o : UnitOut) (s : State) : (setUnitOut o s).trace = s.trace := rfl
@[simp] theorem setUnitOut_host (o : UnitOut) (s : State) : (setUnitOut o s).host = s.host := rfl
@[simp] theorem setUnitOut_unitOut (o : UnitOut) (s : State) : (setUnitOut o s).unitOut = o := rfl
@[simp] theorem setUnitOut_free (o : UnitOut) (s : State) : (setUnitOut o s).free = s.free := rfl

/-! `initRun` -/

@[simp] theorem initRun_a (m r : Int) (s : State) : (initRun m r s).a = 0#4 := rfl
@[simp] theorem initRun_q (m r : Int) (s : State) : (initRun m r s).q = enc4Bits r := rfl
@[simp] theorem initRun_qm1 (m r : Int) (s : State) : (initRun m r s).qm1 = 0#1 := rfl
@[simp] theorem initRun_m (m r : Int) (s : State) : (initRun m r s).m = enc4Bits m := rfl
@[simp] theorem initRun_negm (m r : Int) (s : State) : (initRun m r s).negm = neg4 (enc4Bits m) := rfl
@[simp] theorem initRun_qinit (m r : Int) (s : State) : (initRun m r s).qinit = enc4Bits r := rfl
@[simp] theorem initRun_cnt (m r : Int) (s : State) : (initRun m r s).cnt = 0#3 := rfl
@[simp] theorem initRun_phase (m r : Int) (s : State) : (initRun m r s).phase = .busy := rfl
@[simp] theorem initRun_errval (m r : Int) (s : State) : (initRun m r s).errval = s.errval := rfl
@[simp] theorem initRun_errsrc (m r : Int) (s : State) : (initRun m r s).errsrc = s.errsrc := rfl
@[simp] theorem initRun_trace (m r : Int) (s : State) : (initRun m r s).trace = s.trace := rfl
@[simp] theorem initRun_host (m r : Int) (s : State) : (initRun m r s).host = s.host := rfl
@[simp] theorem initRun_unitOut (m r : Int) (s : State) : (initRun m r s).unitOut = s.unitOut := rfl
@[simp] theorem initRun_free (m r : Int) (s : State) : (initRun m r s).free = s.free := rfl

/-! `takeRangeError` -/

@[simp] theorem takeRangeError_a (e : RangeError) (s : State) : (takeRangeError e s).a = s.a := rfl
@[simp] theorem takeRangeError_q (e : RangeError) (s : State) : (takeRangeError e s).q = s.q := rfl
@[simp] theorem takeRangeError_qm1 (e : RangeError) (s : State) : (takeRangeError e s).qm1 = s.qm1 := rfl
@[simp] theorem takeRangeError_m (e : RangeError) (s : State) : (takeRangeError e s).m = s.m := rfl
@[simp] theorem takeRangeError_negm (e : RangeError) (s : State) : (takeRangeError e s).negm = s.negm := rfl
@[simp] theorem takeRangeError_qinit (e : RangeError) (s : State) : (takeRangeError e s).qinit = s.qinit := rfl
@[simp] theorem takeRangeError_cnt (e : RangeError) (s : State) : (takeRangeError e s).cnt = 0#3 := rfl
@[simp] theorem takeRangeError_phase (e : RangeError) (s : State) : (takeRangeError e s).phase = .error := rfl
@[simp] theorem takeRangeError_errval (e : RangeError) (s : State) : (takeRangeError e s).errval = e.value := rfl
@[simp] theorem takeRangeError_errsrc (e : RangeError) (s : State) : (takeRangeError e s).errsrc = e.which := rfl
@[simp] theorem takeRangeError_trace (e : RangeError) (s : State) : (takeRangeError e s).trace = s.trace := rfl
@[simp] theorem takeRangeError_host (e : RangeError) (s : State) : (takeRangeError e s).host = s.host := rfl
@[simp] theorem takeRangeError_unitOut (e : RangeError) (s : State) : (takeRangeError e s).unitOut = s.unitOut := rfl
@[simp] theorem takeRangeError_free (e : RangeError) (s : State) : (takeRangeError e s).free = s.free := rfl

/-! `resetState` -/

@[simp] theorem resetState_a (s : State) : (resetState s).a = Config.freeA s.free := rfl
@[simp] theorem resetState_q (s : State) : (resetState s).q = Config.freeQ s.free := rfl
@[simp] theorem resetState_qm1 (s : State) : (resetState s).qm1 = Config.freeQm1 s.free := rfl
@[simp] theorem resetState_m (s : State) : (resetState s).m = Config.freeM s.free := rfl
@[simp] theorem resetState_negm (s : State) : (resetState s).negm = Config.freeNegm s.free := rfl
@[simp] theorem resetState_qinit (s : State) : (resetState s).qinit = Config.freeQinit s.free := rfl
@[simp] theorem resetState_cnt (s : State) : (resetState s).cnt = 0#3 := rfl
@[simp] theorem resetState_phase (s : State) : (resetState s).phase = .idle := rfl
@[simp] theorem resetState_errval (s : State) : (resetState s).errval = Config.freeErrval s.free := rfl
@[simp] theorem resetState_errsrc (s : State) : (resetState s).errsrc = Config.freeErrsrc s.free := rfl
@[simp] theorem resetState_trace (s : State) : (resetState s).trace = Config.freeTrace s.free := rfl
@[simp] theorem resetState_host (s : State) : (resetState s).host = s.host := rfl
@[simp] theorem resetState_unitOut (s : State) : (resetState s).unitOut = s.unitOut := rfl
@[simp] theorem resetState_free (s : State) : (resetState s).free = s.free + 1 := rfl

/-! `present` -/

@[simp] theorem present_a (x : Stimulus) (s : State) : (present x s).a = s.a := rfl
@[simp] theorem present_q (x : Stimulus) (s : State) : (present x s).q = s.q := rfl
@[simp] theorem present_qm1 (x : Stimulus) (s : State) : (present x s).qm1 = s.qm1 := rfl
@[simp] theorem present_m (x : Stimulus) (s : State) : (present x s).m = s.m := rfl
@[simp] theorem present_negm (x : Stimulus) (s : State) : (present x s).negm = s.negm := rfl
@[simp] theorem present_qinit (x : Stimulus) (s : State) : (present x s).qinit = s.qinit := rfl
@[simp] theorem present_cnt (x : Stimulus) (s : State) : (present x s).cnt = s.cnt := rfl
@[simp] theorem present_phase (x : Stimulus) (s : State) : (present x s).phase = s.phase := rfl
@[simp] theorem present_errval (x : Stimulus) (s : State) : (present x s).errval = s.errval := rfl
@[simp] theorem present_errsrc (x : Stimulus) (s : State) : (present x s).errsrc = s.errsrc := rfl
@[simp] theorem present_trace (x : Stimulus) (s : State) : (present x s).trace = s.trace := rfl
@[simp] theorem present_host (x : Stimulus) (s : State) : (present x s).host = x :: s.host := rfl
@[simp] theorem present_unitOut (x : Stimulus) (s : State) : (present x s).unitOut = s.unitOut := rfl
@[simp] theorem present_free (x : Stimulus) (s : State) : (present x s).free = s.free := rfl

/-! `completeIteration` -/

@[simp] theorem completeIteration_a (s t : State) :
    (completeIteration s t).a = t.a := rfl
@[simp] theorem completeIteration_q (s t : State) :
    (completeIteration s t).q = t.q := rfl
@[simp] theorem completeIteration_qm1 (s t : State) :
    (completeIteration s t).qm1 = t.qm1 := rfl
@[simp] theorem completeIteration_m (s t : State) :
    (completeIteration s t).m = t.m := rfl
@[simp] theorem completeIteration_negm (s t : State) :
    (completeIteration s t).negm = t.negm := rfl
@[simp] theorem completeIteration_qinit (s t : State) :
    (completeIteration s t).qinit = t.qinit := rfl
@[simp] theorem completeIteration_cnt (s t : State) :
    (completeIteration s t).cnt = s.cnt + 1#3 := rfl
@[simp] theorem completeIteration_phase (s t : State) :
    (completeIteration s t).phase = if s.cnt + 1#3 = 4#3 then .done else s.phase := rfl
@[simp] theorem completeIteration_errval (s t : State) :
    (completeIteration s t).errval = t.errval := rfl
@[simp] theorem completeIteration_errsrc (s t : State) :
    (completeIteration s t).errsrc = t.errsrc := rfl
@[simp] theorem completeIteration_trace (s t : State) :
    (completeIteration s t).trace = traceSet s.trace (s.cnt + 1#3) (iterationStep s t) := rfl
@[simp] theorem completeIteration_host (s t : State) :
    (completeIteration s t).host = t.host := rfl
@[simp] theorem completeIteration_unitOut (s t : State) :
    (completeIteration s t).unitOut = t.unitOut := rfl
@[simp] theorem completeIteration_free (s t : State) :
    (completeIteration s t).free = t.free := rfl

/-! The views of a state as a BoothState -/

@[simp] theorem boothState_setBooth (b : BoothState) (s : State) : boothState (setBooth b s) = b := rfl

@[simp] theorem boothState_initRun (m r : Int) (s : State) :
    boothState (initRun m r s) = ⟨0#4, enc4Bits r, 0#1⟩ := rfl

@[simp] theorem setA_self (s : State) : setA s.a s = s := rfl

end Sys2Proof.Machine
end

