-- ==== Sys2Proof/Laws/Operands.lean ====
section
/-! SUPPORT. Small laws of the combinational functions and of the trace buffer. -/

namespace Sys2Proof.Machine

/-- The adder is addition of bit vectors. -/
theorem addMod_eq_add {w : Nat} (a b : BitVec w) : addMod a b = a + b := rfl

/-- NEG is negation of bit vectors. -/
theorem neg_eq_neg {n : Nat} (b : BitVec (n + 1)) : neg b = -b := by
  rw [neg, addMod_eq_add, BitVec.neg_eq_not_add]

/-- The operand test is the range of four bits (R183). -/
theorem operandOk_iff_inRange (v : Int) : OperandOk v ↔ InRange 3 v := by
  constructor <;> intro h <;> constructor <;> have := h.1 <;> have := h.2 <;>
    simp only [Config.vmin, Config.vmax] at * <;> omega

/-- A value outside the range is reported, whatever else (R103). -/
theorem enc_error {n : Nat} {v : Int} (h : ¬ InRange n v) : enc n v = .error ⟨v, -(2 ^ n), 2 ^ n - 1⟩ :=
  if_neg h

/-- A value in the range has bits (R101). -/
theorem enc_ok {n : Nat} {v : Int} (h : InRange n v) : enc n v = .ok (encBits n v) := if_pos h

/-- ENC_4 of an operand that passes CHECK cannot raise, and gives the bits INIT stores (R143, C9). -/
theorem enc4_of_operandOk {v : Int} (h : OperandOk v) : enc4 v = .ok (enc4Bits v) :=
  enc_ok ((operandOk_iff_inRange v).1 h)

@[simp] theorem recodeOp_00 : recodeOp 0b00#2 = .nop := rfl
@[simp] theorem recodeOp_01 : recodeOp 0b01#2 = .addM := rfl
@[simp] theorem recodeOp_10 : recodeOp 0b10#2 = .subM := rfl
@[simp] theorem recodeOp_11 : recodeOp 0b11#2 = .nop := rfl

/-- The four step indices. -/
abbrev StepIndex (i : BitVec 3) : Prop := i = 1#3 ∨ i = 2#3 ∨ i = 3#3 ∨ i = 4#3

/-- Reading the entry just written. -/
theorem traceGet_traceSet_same {i : BitVec 3} (hi : StepIndex i) (t : TraceBuf) (r : TraceStep) :
    traceGet (traceSet t i r) i = some r := by
  rcases hi with rfl | rfl | rfl | rfl <;> rfl

/-- Reading any other entry. -/
theorem traceGet_traceSet_other {i j : BitVec 3} (h : j ≠ i) (t : TraceBuf) (r : TraceStep) :
    traceGet (traceSet t i r) j = traceGet t j := by
  by_cases h1 : i = 1#3
  · subst h1; simp [traceGet, traceSet, h]
  by_cases h2 : i = 2#3
  · subst h2; simp [traceGet, traceSet, h]
  by_cases h3 : i = 3#3
  · subst h3; simp [traceGet, traceSet, h]
  by_cases h4 : i = 4#3
  · subst h4; simp [traceGet, traceSet, h]
  · rw [traceSet, if_neg h1, if_neg h2, if_neg h3, if_neg h4]

end Sys2Proof.Machine
end

