-- ==== Sys2Proof/Laws/Ops.lean ====
section
/-! SUPPORT. One lemma per shared operation that says everything it can do, and the inversion of a step. -/

namespace Sys2Proof.Machine

/-! CHECK and MUL -/

/-- CHECK passes, or reports the multiplicand, or reports the multiplier (R142). -/
theorem checkOperands_cases (m r : Int) :
    (OperandOk m ∧ OperandOk r ∧ checkOperands m r = .ok ()) ∨
    (¬ OperandOk m ∧ checkOperands m r = .error ⟨m, Config.vmin, Config.vmax, .multiplicand⟩) ∨
    (OperandOk m ∧ ¬ OperandOk r ∧ checkOperands m r = .error ⟨r, Config.vmin, Config.vmax, .multiplier⟩) := by
  unfold checkOperands
  by_cases hm : OperandOk m
  · by_cases hr : OperandOk r
    · exact .inl ⟨hm, hr, by rw [if_neg (not_not_intro hm), if_neg (not_not_intro hr)]⟩
    · exact .inr (.inr ⟨hm, hr, by rw [if_neg (not_not_intro hm), if_pos hr]⟩)
  · exact .inr (.inl ⟨hm, by rw [if_pos hm]⟩)

/-- What an accepted MUL leaves: an initialised run, or one of the two errors (R141). -/
theorem acceptMul_cases (m r : Int) (s : State) :
    (OperandOk m ∧ OperandOk r ∧ acceptMul m r s = initRun m r s) ∨
    (¬ OperandOk m ∧
      acceptMul m r s = takeRangeError ⟨m, Config.vmin, Config.vmax, .multiplicand⟩ s) ∨
    (OperandOk m ∧ ¬ OperandOk r ∧
      acceptMul m r s = takeRangeError ⟨r, Config.vmin, Config.vmax, .multiplier⟩ s) := by
  rcases checkOperands_cases m r with ⟨hm, hr, h⟩ | ⟨hm, h⟩ | ⟨hm, hr, h⟩
  · exact .inl ⟨hm, hr, by rw [acceptMul, h]⟩
  · exact .inr (.inl ⟨hm, by rw [acceptMul, h]⟩)
  · exact .inr (.inr ⟨hm, hr, by rw [acceptMul, h]⟩)

/-- What an ENC_4 instance shows: the bits, or the payload of R84 (R100). -/
theorem enc4Out_eq (v : Operand) :
    enc4Out v = if OperandOk v.value then .enc4 (enc4Bits v.value)
      else .enc4RangeErr ⟨v.value, Config.vmin, Config.vmax, v.which⟩ := by
  by_cases h : OperandOk v.value
  · rw [enc4Out, enc4_of_operandOk h, if_pos h]
  · rw [enc4Out, enc4, enc_error (fun h' => h ((operandOk_iff_inRange _).2 h')), if_neg h]; rfl

/-! The iteration -/

/-- The selected operation leaves `A_op` in `A` and changes nothing else (R145 to R148). -/
theorem operate_eq (pat : Pattern) (s : State) :
    operate pat s = .next (setA (accumulatorOp (recodeOp pat) s.a s.m s.negm) s) := by
  have h : pat = 0b00#2 ∨ pat = 0b01#2 ∨ pat = 0b10#2 ∨ pat = 0b11#2 := by
    revert pat; decide
  rcases h with rfl | rfl | rfl | rfl <;> rfl

/-- The state after one iteration, as one expression: the registers take the next state of level S, and the rest is
`completeIteration`. -/
def iterated (s : State) : State :=
  completeIteration s (setBooth (boothNext s.m s.negm (boothState s)) s)

/-- ITER within its precondition completes (R150). -/
theorem iterate_next {s : State} (h : s.cnt.toNat ≤ 3) : iterate s = .next (iterated s) := by
  rw [iterate, if_neg (by omega), operate_eq]
  rfl

/-- ITER outside its precondition is the one fault (log 8). -/
theorem iterate_pastEnd {s : State} (h : 3 < s.cnt.toNat) : iterate s = .fault .iterationPastEnd :=
  if_pos h

/-- If ITER answers a next state, it is `iterated`. -/
theorem iterate_cases {s t : State} (h : iterate s = .next t) : s.cnt.toNat ≤ 3 ∧ t = iterated s := by
  by_cases hc : 3 < s.cnt.toNat
  · rw [iterate_pastEnd hc] at h; cases h
  · have hc : s.cnt.toNat ≤ 3 := by omega
    rw [iterate_next hc] at h
    cases h
    exact ⟨hc, rfl⟩

/-! The fetch and the step -/

/-- The state with the host's next entry taken. -/
def taken (s : State) : State := { s with host := s.host.tail }

/-- What a fetch answers: a command of the ports, or a driven function's instruction; one entry of the host is taken. -/
theorem fetch_cases (s : State) :
    (fetch s).2 = taken s ∧ ((∃ p : Ports, (fetch s).1 = p.command) ∨ ∃ u, (fetch s).1 = decode (.wired u)) := by
  unfold fetch taken
  split
  · next h => exact ⟨by rw [h, List.tail_nil, ← h], .inl ⟨Ports.quiet, rfl⟩⟩
  · next h => exact ⟨by rw [h, List.tail_cons], .inl ⟨_, rfl⟩⟩
  · next h => exact ⟨by rw [h, List.tail_cons], .inr ⟨_, rfl⟩⟩

/-- A command of the ports is RESET, MUL or NOCMD (R79). -/
theorem command_cases (p : Ports) :
    (p.rst = true ∧ p.command = .reset p.start p.multiplicand p.multiplier) ∨
    (p.rst = false ∧ p.start = true ∧ p.command = .mul p.multiplicand p.multiplier) ∨
    (p.rst = false ∧ p.start = false ∧ p.command = .nocmd p.multiplicand p.multiplier) := by
  rcases p with ⟨rst, start, m, r⟩
  cases rst <;> cases start <;> simp [Ports.command]

/-- A driven function's instruction shows an output and does nothing else (R100). -/
theorem exec_driven (u : UnitInput) (s : State) : ∃ o, exec (decode (.wired u)) s = .next (setUnitOut o s) := by
  cases u <;> exact ⟨_, rfl⟩

/-- Everything a step that answers a next state can have done. -/
theorem step_cases {s t : State} (h : step s = .next t) :
    (t = resetState (taken s)) ∨
    (s.phase ≠ .busy ∧ ∃ m r, t = acceptMul m r (taken s)) ∨
    (s.phase ≠ .busy ∧ t = taken s) ∨
    (s.phase = .busy ∧ s.cnt.toNat ≤ 3 ∧ t = iterated (taken s)) ∨
    (∃ o, t = setUnitOut o (taken s)) := by
  unfold step at h
  obtain ⟨ht, hi⟩ := fetch_cases s
  rw [ht] at h
  rcases hi with ⟨p, hp⟩ | ⟨u, hu⟩
  · rw [hp] at h
    rcases command_cases p with ⟨-, hc⟩ | ⟨-, -, hc⟩ | ⟨-, -, hc⟩ <;> rw [hc] at h
    · cases h; exact .inl rfl
    · by_cases hb : s.phase = .busy
      · have h' : iterate (taken s) = .next t := by
          simpa only [exec, execMul, if_pos (show (taken s).phase = .busy from hb)] using h
        obtain ⟨hle, rfl⟩ := iterate_cases h'
        exact .inr (.inr (.inr (.inl ⟨hb, hle, rfl⟩)))
      · simp only [exec, execMul, if_neg (show ¬ (taken s).phase = .busy from hb)] at h
        cases h
        exact .inr (.inl ⟨hb, _, _, rfl⟩)
    · by_cases hb : s.phase = .busy
      · have h' : iterate (taken s) = .next t := by
          simpa only [exec, execNocmd, if_pos (show (taken s).phase = .busy from hb)] using h
        obtain ⟨hle, rfl⟩ := iterate_cases h'
        exact .inr (.inr (.inr (.inl ⟨hb, hle, rfl⟩)))
      · simp only [exec, execNocmd, if_neg (show ¬ (taken s).phase = .busy from hb)] at h
        cases h
        exact .inr (.inr (.inl ⟨hb, rfl⟩))
  · obtain ⟨o, ho⟩ := exec_driven u (taken s)
    rw [hu, ho] at h
    cases h
    exact .inr (.inr (.inr (.inr ⟨o, rfl⟩)))

end Sys2Proof.Machine
end

