-- ==== Sys2Proof/Laws/PerInstr.lean ====
section
/-! SUPPORT. A statement for each instruction as syntax: its word is read where the opcode table's format column says
(R92). -/

namespace Sys2Proof

/-- The format of the place a word is read at (R70). -/
def Code.format : Code → Format
  | .cmd _ => .cmd
  | .rp2 _ => .rp2
  | .shreg _ => .shreg
  | .wired (.enc4 _ _) => .opnd
  | .wired (.dec8 _) => .prod
  | .wired (.addMod4 _) | .wired (.concat44 _) => .nibNib
  | .wired (.dec4 _) | .wired (.sext48 _) | .wired (.neg4 _) | .wired (.sra4 _) | .wired (.lsb4 _) | .wired (.msb4 _) => .nib

end Sys2Proof

namespace Sys2Proof.Laws.EncodesInItsFormat

/-- The instruction's word has the format the table gives its row. -/
def Statement (i : Instr) : Prop := (encode i).format = i.format

theorem nop00 : Statement .nop00 := rfl
theorem addM : Statement .addM := rfl
theorem subM : Statement .subM := rfl
theorem nop11 : Statement .nop11 := rfl
theorem reset (start : Bool) (m r : Int) : Statement (.reset start m r) := rfl
theorem mul (m r : Int) : Statement (.mul m r) := rfl
theorem nocmd (m r : Int) : Statement (.nocmd m r) := rfl
theorem shr9 (a q : Nib) (g : Bit) : Statement (.shr9 a q g) := rfl
theorem enc4 (v : Operand) : Statement (.enc4 v) := rfl
theorem dec4 (b : Nib) : Statement (.dec4 b) := rfl
theorem dec8 (a q : Nib) : Statement (.dec8 a q) := rfl
theorem sext48 (b : Nib) : Statement (.sext48 b) := rfl
theorem neg4 (b : Nib) : Statement (.neg4 b) := rfl
theorem sra4 (b : Nib) : Statement (.sra4 b) := rfl
theorem addMod4 (a b : Nib) : Statement (.addMod4 a b) := rfl
theorem lsb4 (b : Nib) : Statement (.lsb4 b) := rfl
theorem msb4 (b : Nib) : Statement (.msb4 b) := rfl
theorem concat44 (a b : Nib) : Statement (.concat44 a b) := rfl

end Sys2Proof.Laws.EncodesInItsFormat
end

