-- ==== Sys2Proof/Laws/Run.lean ====
section
/-! SUPPORT. Runs of the machine, one step at a time, and the step at a clock edge. -/

namespace Sys2Proof.Machine

/-- No step. -/
theorem run_zero (s : State) : Host.Core.run core 0 s = .next s := rfl

/-- One step that answers, and the steps after it. -/
theorem run_succ {k : Nat} {s t : State} (h : step s = .next t) :
    Host.Core.run core (k + 1) s = Host.Core.run core k t := by
  have h' : core.step s = .next t := h
  simp only [Host.Core.run, h']

/-- A step at a clock edge executes the command of the ports. -/
theorem step_clock {s : State} {p : Ports} {rest : List Stimulus} (h : s.host = .clock p :: rest) :
    step s = exec p.command { s with host := rest } := by
  simp only [step, fetch, h]

/-- In BUSY, at a legal count, a clock edge without reset is one iteration, whatever else the ports carry (R166). -/
theorem step_clock_busy {s : State} {p : Ports} {rest : List Stimulus} (h : s.host = .clock p :: rest)
    (hr : p.rst = false) (hb : s.phase = .busy) (hc : s.cnt.toNat ≤ 3) :
    step s = .next (iterated { s with host := rest }) := by
  have it : iterate { s with host := rest } = .next (iterated { s with host := rest }) := iterate_next hc
  rw [step_clock h]
  rcases command_cases p with ⟨h, _⟩ | ⟨_, _, h⟩ | ⟨_, _, h⟩
  · rw [hr] at h; cases h
  · rw [h]; simp only [exec, execMul]; rw [if_pos hb, it]
  · rw [h]; simp only [exec, execNocmd]; rw [if_pos hb, it]

/-- The counter below 4 does not wrap (R30). -/
theorem cnt_succ {c : BitVec 3} (h : c.toNat ≤ 3) : (c + 1#3).toNat = c.toNat + 1 := by
  revert c; decide

/-- The fourth iteration is the one that starts with CNT = 3 (R152). -/
theorem cnt_succ_eq_four (c : BitVec 3) : c + 1#3 = 4#3 ↔ c = 3#3 := by
  revert c; decide

end Sys2Proof.Machine
end

