-- ==== Sys2Proof/Tests/Slice0.lean ====
section
/-! SUPPORT. Tests: words and results taken from `95_test_vectors.md` and the rules' own examples, and for every statement
with hypotheses a witness that meets them. -/

namespace Sys2Proof.Tests

open Sys2Proof Sys2Proof.Machine Sys2Proof.Safety

/-! ## Helpers -/

/-- The next state of an answer. -/
def after : Answer → Option State
  | .next s => some s
  | .fault _ => none
  | .refused _ => none

/-- A run in progress with these registers; `M` and `NEGM` as given. -/
def running (a q : Nib) (g : Bit) (m negm : Nib) (cnt : BitVec 3) : State :=
  { State.reset with a := a, q := q, qm1 := g, m := m, negm := negm, cnt := cnt, phase := .busy }

/-- A finished run that shows `a ‖ q`. -/
def finished (a q : Nib) : State := { State.reset with a := a, q := q, cnt := 4#3, phase := .done }

/-- The block after `MUL 9, 2` (P3). -/
def failed : State := { State.reset with errval := 9, phase := .error }

/-- `s` with these port values presented next. -/
def given (ps : List Ports) (s : State) : State := { s with host := ps.map .clock }

/-- MUL m, r on the ports. -/
def mulPorts (m r : Int) : Ports := ⟨false, true, m, r⟩

/-- What a run of k steps leaves in DONE. -/
def productAfter (k : Nat) (s : State) : Option Int :=
  match Host.Core.run core k s with
  | .next t => (productDec t).toOption
  | .fault _ => none
  | .refused _ => none

/-! ## WellFormed: an ill-formed term for each check (R7: 8 bits carry -128 to 127) -/

theorem test_wf_mul_multiplicand_above : (Instr.mul 128 0).wf = false := by decide
theorem test_wf_mul_multiplier_below : (Instr.mul 0 (-129)).wf = false := by decide
theorem test_wf_reset_multiplicand : (Instr.reset true (-129) 0).wf = false := by decide
theorem test_wf_reset_multiplier : (Instr.reset true 0 128).wf = false := by decide
theorem test_wf_nocmd_multiplicand : (Instr.nocmd 128 0).wf = false := by decide
theorem test_wf_nocmd_multiplier : (Instr.nocmd 0 128).wf = false := by decide
theorem test_wf_enc4 : (Instr.enc4 ⟨.multiplicand, -129⟩).wf = false := by decide
theorem test_wf_mul_ends : (Instr.mul 127 (-128)).wf = true := by decide

/-! ## Decoding: every constructor, by a word written out from its encoding -/

theorem test_decode_nop00 : decode (.rp2 0b00#2) = .nop00 := by rfl
theorem test_decode_addM : decode (.rp2 0b01#2) = .addM := by rfl
theorem test_decode_subM : decode (.rp2 0b10#2) = .subM := by rfl
theorem test_decode_nop11 : decode (.rp2 0b11#2) = .nop11 := by rfl
/-- `rst start multiplicand multiplier` = 1 1 00001001 11101100. -/
theorem test_decode_reset : decode (.cmd 0b110000100111101100#18) = .reset true 9 (-20) := by rfl
/-- MUL 3, -4 (P4): 0 1 00000011 11111100. -/
theorem test_decode_mul : decode (.cmd 0b010000001111111100#18) = .mul 3 (-4) := by rfl
/-- 0 0 10000000 01111111: ignored operands are kept. -/
theorem test_decode_nocmd : decode (.cmd 0b001000000001111111#18) = .nocmd (-128) 127 := by rfl
/-- `aaaaqqqqg` = 1101 0011 0 (iteration 3 of 3 × -4). -/
theorem test_decode_shr9 : decode (.shreg 0b110100110#9) = .shr9 0b1101#4 0b0011#4 0b0#1 := by rfl
theorem test_decode_enc4 : decode (.wired (.enc4 .multiplier 0b11111101#8)) = .enc4 ⟨.multiplier, -3⟩ := by rfl
theorem test_decode_dec4 : decode (.wired (.dec4 0b1101#4)) = .dec4 0b1101#4 := by rfl
theorem test_decode_dec8 : decode (.wired (.dec8 0b11110100#8)) = .dec8 0b1111#4 0b0100#4 := by rfl
theorem test_decode_sext48 : decode (.wired (.sext48 0b1101#4)) = .sext48 0b1101#4 := by rfl
theorem test_decode_neg4 : decode (.wired (.neg4 0b0011#4)) = .neg4 0b0011#4 := by rfl
theorem test_decode_sra4 : decode (.wired (.sra4 0b1001#4)) = .sra4 0b1001#4 := by rfl
theorem test_decode_addMod4 : decode (.wired (.addMod4 0b11110111#8)) = .addMod4 0b1111#4 0b0111#4 := by rfl
theorem test_decode_lsb4 : decode (.wired (.lsb4 0b0110#4)) = .lsb4 0b0110#4 := by rfl
theorem test_decode_msb4 : decode (.wired (.msb4 0b1001#4)) = .msb4 0b1001#4 := by rfl
theorem test_decode_concat44 : decode (.wired (.concat44 0b11110100#8)) = .concat44 0b1111#4 0b0100#4 := by rfl
/-- P1: the encoder writes MUL 5, 3 as printed. -/
theorem test_encode_mul : encode (.mul 5 3) = .cmd 0x10503#18 := by rfl
/-- P2: and MUL -3, 1. -/
theorem test_encode_mul_negative : encode (.mul (-3) 1) = .cmd 0x1FD01#18 := by rfl

/-! ## Table words and the fetch -/

theorem test_table_mul : decodeTableWord 24 0x10000 = some (.mul 0 0) := by rfl
theorem test_table_subM : decodeTableWord 8 2 = some .subM := by rfl
theorem test_table_too_wide : decodeTableWord 24 0x40000 = none := by rfl
/-- P1: MUL 5, 3 runs as the first instruction after reset. -/
theorem test_fetch_mul : (after (step (State.reset.withFetchWord 24 0x10503))).map (fun t => (t.m, t.negm, t.q, t.phase))
    = some (0b0101#4, 0b1011#4, 0b0011#4, .busy) := by decide
/-- The pattern 10 is read by the next iteration, and its record says SUB_M. -/
theorem test_fetch_subM : (after (step (State.reset.withFetchWord 8 2))).map (fun t => (t.trace.t1.pat, t.trace.t1.op))
    = some (0b10#2, .subM) := by decide
/-- The word 1101 0011 0 is shifted by the next iteration: (1110, 1001, 1), even where the operation adds. -/
theorem test_fetch_shr9 : (after (step ((running 0 0 0 0b0011#4 0b1101#4 0).withFetchWord 16 0b110100110))).map boothState
    = some ⟨0b1110#4, 0b1001#4, 0b1#1⟩ := by decide

/-! ## Instructions, on the spec's examples -/

/-- R145. -/
theorem test_nop00 : (after (exec .nop00 (running 0b0000#4 0b1100#4 0 0b0011#4 0b1101#4 0))).map (·.a) = some 0b0000#4 := by decide
/-- R146: 1111 + 0111 = 0110. -/
theorem test_addM : (after (exec .addM (running 0b1111#4 0b0010#4 1 0b0111#4 0b1001#4 3))).map (·.a) = some 0b0110#4 := by decide
/-- R146: -4 + -8 wraps to +4. -/
theorem test_addM_wraps : (after (exec .addM (running 0b1100#4 0 1 0b1000#4 0b1000#4 1))).map (·.a) = some 0b0100#4 := by decide
/-- R147. -/
theorem test_subM : (after (exec .subM (running 0b0000#4 0b0011#4 0 0b0011#4 0b1101#4 2))).map (·.a) = some 0b1101#4 := by decide
/-- R147: at m = -8 SUB_M adds -8. -/
theorem test_subM_minus8 : (after (exec .subM (running 0b0000#4 0b0001#4 0 0b1000#4 0b1000#4 3))).map (·.a) = some 0b1000#4 := by decide
/-- R148. -/
theorem test_nop11 : (after (exec .nop11 (running 0b1110#4 0b1001#4 1 0b0011#4 0b1101#4 3))).map (·.a) = some 0b1110#4 := by decide
/-- Section 2.6. -/
theorem test_shr9 : (after (exec (.shr9 0b0111#4 0b0000#4 1) State.reset)).map boothState = some ⟨0b0011#4, 0b1000#4, 0b0#1⟩ := by decide
/-- Section 2.6: the sign is replicated. -/
theorem test_shr9_sign : (after (exec (.shr9 0b1000#4 0b0001#4 0) State.reset)).map boothState = some ⟨0b1100#4, 0b0000#4, 0b1#1⟩ := by decide
/-- Section 2.1. -/
theorem test_enc4 : (after (exec (.enc4 ⟨.multiplicand, -3⟩) State.reset)).map (·.unitOut) = some (.enc4 0b1101#4) := by decide
/-- Section 2.1, and R84's payload: `which` = 1 for the multiplier. -/
theorem test_enc4_raises : (after (exec (.enc4 ⟨.multiplier, 8⟩) State.reset)).map (·.unitOut)
    = some (.enc4RangeErr ⟨8, -8, 7, .multiplier⟩) := by decide
/-- Section 2.2. -/
theorem test_dec4 : (after (exec (.dec4 0b1000#4) State.reset)).map (·.unitOut) = some (.dec4 (-8)) := by decide
/-- Section 2.2. -/
theorem test_dec8 : (after (exec (.dec8 0b1111#4 0b0100#4) State.reset)).map (·.unitOut) = some (.dec8 (-12)) := by decide
/-- Section 2.3. -/
theorem test_sext48 : (after (exec (.sext48 0b1000#4) State.reset)).map (·.unitOut) = some (.sext48 0b11111000#8) := by decide
/-- Section 2.4: the fixed point. -/
theorem test_neg4 : (after (exec (.neg4 0b1000#4) State.reset)).map (·.unitOut) = some (.neg4 0b1000#4) := by decide
/-- Section 2.4. -/
theorem test_neg4_three : (after (exec (.neg4 0b0011#4) State.reset)).map (·.unitOut) = some (.neg4 0b1101#4) := by decide
/-- Section 2.5. -/
theorem test_sra4 : (after (exec (.sra4 0b1001#4) State.reset)).map (·.unitOut) = some (.sra4 0b1100#4) := by decide
/-- Section 2.7: the carry is dropped. -/
theorem test_addMod4 : (after (exec (.addMod4 0b1111#4 0b0001#4) State.reset)).map (·.unitOut) = some (.addMod4 0b0000#4) := by decide
/-- R124. -/
theorem test_lsb4 : (after (exec (.lsb4 0b0110#4) State.reset)).map (·.unitOut) = some (.lsb4 0#1) := by decide
/-- R125. -/
theorem test_msb4 : (after (exec (.msb4 0b1001#4) State.reset)).map (·.unitOut) = some (.msb4 1#1) := by decide
/-- R126. -/
theorem test_concat44 : (after (exec (.concat44 0b1111#4 0b0100#4) State.reset)).map (·.unitOut) = some (.concat44 0b11110100#8) := by decide
/-- Section 2.11: reset in BUSY, `start` ignored. -/
theorem test_reset : (after (exec (.reset true 3 4) (running 1 1 1 1 1 2))).map (fun t => (t.phase, t.cnt)) = some (.idle, 0#3) := rfl
/-- Section 2.9: MUL -8, 7. -/
theorem test_mul : (after (exec (.mul (-8) 7) State.reset)).map (fun t => (t.m, t.negm, t.qinit, t.q))
    = some (0b1000#4, 0b1000#4, 0b0111#4, 0b0111#4) := by decide
/-- Section 2.9: MUL 100, -100 reports the multiplicand. -/
theorem test_mul_raises : (after (exec (.mul 100 (-100)) State.reset)).map (fun t => (t.errval, t.errsrc, t.phase))
    = some (100, .multiplicand, .error) := by decide
/-- Section 2.11: in DONE nothing changes. -/
theorem test_nocmd : after (exec (.nocmd 9 9) (finished 0b1111#4 0b0100#4)) = some (finished 0b1111#4 0b0100#4) := by decide
/-- R150: iteration 2 of -3 × 1. -/
theorem test_iteration : (after (exec (.nocmd 0 0) (running 0b0001#4 0b1000#4 1 0b1101#4 0b0011#4 1))).map boothState
    = some ⟨0b1111#4, 0b0100#4, 0b0#1⟩ := by decide
/-- Section 2.10: the packed record of iteration 4 of -7 × -7. -/
theorem test_iteration_record : (after (exec (.nocmd 0 0) (running 0b1111#4 0b0011#4 0 0b1001#4 0b0111#4 3))).map
    (fun t => packStep t.trace.t4) = some 0x13CD463#25 := by decide

/-! ## The engine and the outputs -/

/-- S6: 3 × -4 = -12. -/
theorem test_engine : (engine 3 (-4)).toOption.map (·.productBin) = some 0b11110100#8 := by decide
/-- S7 as corrected: -8 × -8 gives -64. -/
theorem test_engine_anomaly : (engine (-8) (-8)).toOption.map (·.productDec) = some (-64) := by decide
/-- Section 2.10: the first record of 5 × 3. -/
theorem test_engine_record : (engine 5 3).toOption.map (fun r => r.trace.map packStep)
    = some [0x040D5B3#25, 0x0B679D9#25, 0x0FB2A3C#25, 0x107801E#25] := by decide
/-- R37: nothing is read in IDLE. -/
theorem test_no_product_after_reset : (productBin State.reset).toOption = none := by decide
/-- Section 2.11: index 5 holds no value. -/
theorem test_trace_index_five : (traceRec 5#3 (finished 0 0)).toOption = none := by decide

/-! ## Witnesses: for each statement with hypotheses, values that meet them; one for each clause -/

theorem witness_DecodeOfEncode : (Instr.mul (-128) 127).WellFormed := by decide
theorem witness_EncodeOfDecode : decode (.cmd 0x3FFFF#18) = .reset true (-1) (-1) := by rfl
theorem witness_CmdWordRoundTrip_four : 1 ≤ 4 ∧ (Ports.mk false true (-8) 7).Fit 4 := by decide
theorem witness_CmdWordRoundTrip_one : 1 ≤ 1 ∧ (Ports.mk true false (-1) 0).Fit 1 := by decide
theorem witness_CommandWords_reset : (0x3FFFF#18).getLsbD 17 = true := by decide
theorem witness_CommandWords_mul : (0x1FFFF#18).getLsbD 17 = false ∧ (0x1FFFF#18).getLsbD 16 = true := by decide
theorem witness_CommandWords_nocmd : (0x0FFFF#18).getLsbD 17 = false ∧ (0x0FFFF#18).getLsbD 16 = false := by decide
theorem witness_TraceRecordRoundTrip_reserved : (0x600#25).extractLsb' 9 2 = 3#2 := by decide
theorem witness_TraceRecordRoundTrip_legal : (0x1FFFDFF#25).extractLsb' 9 2 ≠ 3#2 := by decide
theorem witness_EncodeClosedForm_in : -(2 ^ 3) ≤ (-8 : Int) ∧ (-8 : Int) ≤ 2 ^ 3 - 1 := by decide
theorem witness_EncodeClosedForm_top : -(2 ^ 3) ≤ (7 : Int) ∧ (7 : Int) ≤ 2 ^ 3 - 1 := by decide
theorem witness_EncodeClosedForm_one_bit : -(2 ^ 0) ≤ (-1 : Int) ∧ (-1 : Int) ≤ 2 ^ 0 - 1 := by decide
theorem witness_EncodeClosedForm_below : (-9 : Int) < -(2 ^ 3) ∨ 2 ^ 3 - 1 < (-9 : Int) := by decide
theorem witness_EncodeClosedForm_above : (8 : Int) < -(2 ^ 3) ∨ 2 ^ 3 - 1 < (8 : Int) := by decide
theorem witness_CodecRoundTrip : -(2 ^ 0) ≤ (-1 : Int) ∧ (-1 : Int) ≤ 2 ^ 0 - 1 := by decide
theorem witness_SignExtension_low : 3 + 1 ≤ 7 + 1 ∧ 3 ≤ 3 := by decide
theorem witness_SignExtension_high : 3 + 1 ≤ 7 + 1 ∧ 3 < 4 ∧ 3 < 7 ∧ 7 ≤ 7 := by decide
theorem witness_Negation : 0b0111#4 ≠ 0b1000#4 ∧ 0b1001#4 ≠ 0b1000#4 := by decide
theorem witness_EncoderAnswers_in : -8 ≤ (-8 : Int) ∧ (7 : Int) ≤ 7 := by decide
theorem witness_EncoderAnswers_out : (-9 : Int) < -8 ∧ 7 < (8 : Int) := by decide
theorem witness_AcceptedMul : State.reset.phase ≠ .busy ∧ -8 ≤ (-8 : Int) ∧ (-8 : Int) ≤ 7 ∧ -8 ≤ (7 : Int) ∧ (7 : Int) ≤ 7 := by
  decide
theorem witness_OutOfRangeMul_multiplicand : failed.phase ≠ .busy ∧ ((-9 : Int) < -8 ∨ 7 < (-9 : Int)) := by decide
theorem witness_OutOfRangeMul_multiplier :
    State.reset.phase ≠ .busy ∧ (-8 ≤ (7 : Int) ∧ (7 : Int) ≤ 7) ∧ ((8 : Int) < -8 ∨ 7 < (8 : Int)) := by decide
theorem witness_FailingMul : State.reset.phase ≠ .busy ∧ ((7 : Int) < -8 ∨ 7 < (7 : Int) ∨ (8 : Int) < -8 ∨ 7 < (8 : Int)) := by
  decide
theorem witness_MulDuringARun : (running 0 0 0 0 0 2).phase = .busy := by decide
theorem witness_NoCommandHolds : (finished 0b1111#4 0b0100#4).phase ≠ .busy := by decide
/-- The three clauses of IterationResult, at the first and at the last count; also for IterationRunsTheDecodedPattern. -/
theorem witness_IterationResult_nop : (running 0 0b1001#4 1 0 0 0).phase = .busy ∧ (running 0 0b1001#4 1 0 0 0).cnt.toNat ≤ 3 ∧
    (0b1001#4).getLsbD 0 = (1#1).getLsbD 0 := by decide
theorem witness_IterationResult_addM : (running 0 0b1000#4 1 0 0 3).phase = .busy ∧ (running 0 0b1000#4 1 0 0 3).cnt.toNat ≤ 3 ∧
    (0b1000#4).getLsbD 0 = false ∧ (1#1).getLsbD 0 = true := by decide
theorem witness_IterationResult_subM : (running 0 0b0001#4 0 0 0 3).phase = .busy ∧ (running 0 0b0001#4 0 0 0 3).cnt.toNat ≤ 3 ∧
    (0b0001#4).getLsbD 0 = true ∧ (0#1).getLsbD 0 = false := by decide
theorem witness_IterationPastTheEnd : (running 0 0 0 0 0 4).phase = .busy ∧ 3 < (running 0 0 0 0 0 4).cnt.toNat := by decide
theorem witness_Step_quiet : State.reset.host = [] := by decide
theorem witness_Step_clock : (given [mulPorts 5 3] State.reset).host = .clock (mulPorts 5 3) :: [] := by decide
theorem witness_Step_drive : (present (.drive (.neg4 3#4)) State.reset).host = .drive (.neg4 3#4) :: [] := by rfl
theorem witness_PhaseMachine_idle : CounterLegal (given [mulPorts 8 0] State.reset) ∧
    (given [mulPorts 8 0] State.reset).host = .clock (mulPorts 8 0) :: [] := ⟨rfl, rfl⟩
theorem witness_PhaseMachine_busy : (given [mulPorts 1 1] (running 0 0 0 0 0 3)).cnt.toNat ≤ 3 ∧
    CounterLegal (given [mulPorts 1 1] (running 0 0 0 0 0 3)) :=
  ⟨by decide, show (3#3).toNat ≤ 3 by decide⟩
theorem witness_OnlyMulAndReset_other : after (exec .addM State.reset) = some State.reset ∧
    (∀ a b c, Instr.addM ≠ .reset a b c) ∧ (∀ m r, Instr.addM ≠ .mul m r) := ⟨by decide, nofun, nofun⟩
theorem witness_OnlyMulAndReset_busy : (after (exec (.mul 5 3) (running 0 0 0 0b0011#4 0b1101#4 0))).map (·.m) = some 0b0011#4 ∧
    (∀ a b c, Instr.mul 5 3 ≠ .reset a b c) ∧ (running 0 0 0 0b0011#4 0b1101#4 0).phase = .busy := ⟨by decide, nofun, by decide⟩
theorem witness_TraceIsAppendOnly : (after (exec (.nocmd 0 0) (running 0 1 0 0 0 3))).map (fun t => decide (traceGet t.trace 4#3 ≠
    traceGet (running 0 1 0 0 0 3).trace 4#3)) = some true ∧ ∀ a b c, Instr.nocmd 0 0 ≠ .reset a b c := ⟨by decide, nofun⟩
theorem witness_ErrorIsLeftOnly : failed.phase = .error ∧ after (exec (.nocmd 0 0) failed) = some failed ∧
    (∀ a b c, Instr.nocmd 0 0 ≠ .reset a b c) ∧ ∀ m r, Instr.nocmd 0 0 ≠ .mul m r := ⟨by decide, by decide, nofun, nofun⟩
theorem witness_StepsNeverStop : (after (step (running 1 1 0 1 15 0))).map (·.phase) = some .busy := by decide
/-- For StepKeepsInvariant and StepsFromTheInvariantComplete: a run just begun meets the invariant, and steps. -/
theorem witness_StepKeepsInvariant : Inv (initRun 7 (-8) State.reset) ∧
    (after (step (initRun 7 (-8) State.reset))).map (·.cnt) = some 1#3 :=
  ⟨⟨show (0#3).toNat ≤ 3 by decide, fun _ => rfl, fun _ => rfl, fun _ k hk => absurd hk (Nat.not_lt_zero k), nofun⟩,
    by decide⟩
/-- The ports during a run: another MUL, and operands without `start`. -/
def meanwhile : List Ports := [mulPorts 1 1, ⟨false, false, 9, 9⟩, Ports.quiet, mulPorts 99 0]
theorem witness_RunMatchesEngine_ok : failed.phase ≠ .busy ∧ NoReset meanwhile ∧ meanwhile.length = 4 ∧
    Presents (given (mulPorts 7 7 :: meanwhile) failed) (mulPorts 7 7 :: meanwhile) [] ∧ (engine 7 7).toOption.isSome = true := by
  decide
theorem witness_RunMatchesEngine_error : engine 9 2 = .error ⟨9, -8, 7, .multiplicand⟩ := by rfl
/-- P4: the run is not disturbed. -/
theorem test_run : productAfter 5 (given (mulPorts 3 (-4) :: meanwhile) failed) = some (-12) := by decide
theorem witness_BusyReachesDone : (given [mulPorts 1 1] (running 0 0 0 0 0 3)).phase = .busy ∧ NoReset [mulPorts 1 1] ∧
    [mulPorts 1 1].length = 4 - (given [mulPorts 1 1] (running 0 0 0 0 0 3)).cnt.toNat ∧
    Presents (given [mulPorts 1 1] (running 0 0 0 0 0 3)) [mulPorts 1 1] [] := by decide
/-- What another host presents during its run. -/
def otherwise : List Ports := [Ports.quiet, mulPorts (-8) 3, mulPorts 0 0, ⟨false, false, -1, 5⟩]
theorem witness_RunsAreIsolated : State.reset.phase ≠ .busy ∧ failed.phase ≠ .busy ∧ OperandOk 7 ∧ OperandOk (-8) ∧
    NoReset meanwhile ∧ NoReset otherwise ∧ meanwhile.length ≤ 4 ∧ otherwise.length = meanwhile.length ∧
    Presents (given (mulPorts 7 (-8) :: meanwhile) failed) (mulPorts 7 (-8) :: meanwhile) [] ∧
    Presents (given (mulPorts 7 (-8) :: otherwise) State.reset) (mulPorts 7 (-8) :: otherwise) [] := by decide
theorem witness_QuietPhasesPersist : (finished 1 1).phase ≠ .busy ∧ (finished 1 1).host = [] := by decide
theorem witness_EngineIsExact : -8 ≤ (-7 : Int) ∧ (-7 : Int) ≤ 7 ∧ ((-7 : Int) = -8 → (7 : Int) = 0) ∧
    ((-8 : Int) = -8 → (0 : Int) = 0) := by decide
theorem witness_EngineAtMinus8 : -8 ≤ (-8 : Int) ∧ (-8 : Int) ≤ 7 := by decide
theorem witness_AddsOverflow : -7 ≤ (-7 : Int) ∧ -8 ≤ (-8 : Int) ∧ 3 < 4 ∧ (7 : Int) ≠ 0 := by decide
theorem witness_Patterns : 1 ≤ 1 ∧ 1 ≤ 3 ∧ 3 ≤ 3 := by decide
theorem witness_ShiftPreservesTheSign : (0b1111#4).getLsbD 0 = (1#1).getLsbD 0 := by decide
/-- For ProductNeverOverflows and TraceLaws. -/
theorem witness_engine_answers : ((engine (-8) (-8)).toOption.map (·.trace.length)) = some 4 := by decide
theorem witness_Outputs : (running 0 0 0 0 0 0).phase ≠ .done ∧ (running 0 0 0 0 0 0).phase ≠ .error := by decide
theorem witness_OutputsInError_multiplicand : failed.phase = .error ∧ failed.errsrc = .multiplicand := by decide
theorem witness_OutputsInError_multiplier : (takeRangeError ⟨-20, -8, 7, .multiplier⟩ State.reset).phase = .error ∧
    (takeRangeError ⟨-20, -8, 7, .multiplier⟩ State.reset).errsrc = .multiplier := by decide
/-- P3: after MUL 2, -20 the host reads -20 and 1. -/
theorem test_err_outputs : (after (exec (.mul 2 (-20)) State.reset)).map (fun t => ((errValue t).toOption, (errSrc t).toOption))
    = some (some (-20), some 1#1) := by decide
/-- For OutputsInTheirPhase and TraceIsReadAtItsIndices, at the ends of the index range. -/
theorem witness_OutputsInDone : (finished 0b1111#4 0b0100#4).phase = .done ∧ (finished 0b1111#4 0b0100#4).cnt = 4#3 ∧
    1 ≤ (1#3).toNat ∧ (4#3).toNat ≤ 4 ∧ (0#3).toNat = 0 ∧ 4 < (5#3).toNat := by decide

end Sys2Proof.Tests
end

/-! ## The CMD word, field by field (R78)

What `Ports.toBits` puts at each place of the word, and what `Ports.ofBits` reads back from it, at every port width. -/
namespace Sys2Proof

variable {inW : Nat} (p : Ports)

/-- R78: the layout of the CMD word, from bit 0 up: multiplier, multiplicand, `start`, `rst`. -/
theorem Ports.getLsbD_toBits (i : Nat) :
    (Ports.toBits inW p).getLsbD i =
      if i < inW then (BitVec.ofInt inW p.multiplier).getLsbD i
      else if i < 2 * inW then (BitVec.ofInt inW p.multiplicand).getLsbD (i - inW)
      else if i = 2 * inW then p.start
      else (decide (i = 2 * inW + 1) && p.rst) := by
  simp only [Ports.toBits, BitVec.getLsbD_cast, BitVec.getLsbD_append, BitVec.getLsbD_ofBool, ← Nat.two_mul]
  by_cases hoperand : i < 2 * inW
  · simp [hoperand]
  · obtain ⟨j, rfl⟩ := Nat.exists_eq_add_of_le (Nat.le_of_not_lt hoperand)
    rcases j with _ | j
    · simp [show ¬ 2 * inW < inW by omega]
    · simp [show ¬ 2 * inW + (j + 1) < inW by omega]

theorem Ports.getLsbD_toBits_rst : (Ports.toBits inW p).getLsbD (2 * inW + 1) = p.rst := by
  rw [Ports.getLsbD_toBits]
  simp [show ¬ 2 * inW + 1 < inW by omega]

theorem Ports.getLsbD_toBits_start : (Ports.toBits inW p).getLsbD (2 * inW) = p.start := by
  rw [Ports.getLsbD_toBits]
  simp [show ¬ 2 * inW < inW by omega]

@[simp] theorem Ports.extractLsb'_toBits_multiplicand :
    (Ports.toBits inW p).extractLsb' inW inW = BitVec.ofInt inW p.multiplicand := by
  ext i hi
  simp [Ports.getLsbD_toBits, BitVec.getLsbD_eq_getElem, hi, show inW + i < 2 * inW by omega]

@[simp] theorem Ports.extractLsb'_toBits_multiplier :
    (Ports.toBits inW p).extractLsb' 0 inW = BitVec.ofInt inW p.multiplier := by
  ext i hi
  simp [Ports.getLsbD_toBits, BitVec.getLsbD_eq_getElem, hi]

/-- R7, R71: an operand that fits its port is the signed value of its port word. -/
theorem FitsPort.toInt_ofInt {v : Int} (hw : 1 ≤ inW) (hv : FitsPort inW v) :
    (BitVec.ofInt inW v).toInt = v :=
  BitVec.toInt_ofInt_eq_self hw hv.1 (Int.lt_of_le_sub_one hv.2)

/-- R7, R71: every port word carries a value that fits the port. -/
theorem FitsPort.of_toInt (x : BitVec inW) : FitsPort inW x.toInt :=
  ⟨BitVec.le_toInt x, Int.le_sub_one_of_lt BitVec.toInt_lt⟩

theorem Ports.fit_ofBits (w : BitVec (2 * inW + 2)) : (Ports.ofBits inW w).Fit inW :=
  ⟨FitsPort.of_toInt _, FitsPort.of_toInt _⟩

variable {p} in
theorem Ports.ofBits_toBits (hw : 1 ≤ inW) (hp : p.Fit inW) :
    Ports.ofBits inW (Ports.toBits inW p) = p := by
  obtain ⟨hmultiplicand, hmultiplier⟩ := hp
  simp only [Ports.ofBits, Ports.getLsbD_toBits_rst, Ports.getLsbD_toBits_start,
    Ports.extractLsb'_toBits_multiplicand, hmultiplicand.toInt_ofInt hw,
    Ports.extractLsb'_toBits_multiplier, hmultiplier.toInt_ofInt hw]

/-- Every bit of a CMD word is a bit of one of the ports read from it (R78). -/
theorem Ports.toBits_ofBits (w : BitVec (2 * inW + 2)) :
    Ports.toBits inW (Ports.ofBits inW w) = w := by
  apply BitVec.eq_of_getLsbD_eq
  intro i hi
  rw [Ports.getLsbD_toBits]
  simp only [Ports.ofBits, BitVec.ofInt_toInt, BitVec.getLsbD_extractLsb']
  split_ifs with hmultiplier hmultiplicand hstart
  · simp [hmultiplier]
  · simp [show i - inW < inW by omega, show inW + (i - inW) = i by omega]
  · rw [hstart]
  · simp [show i = 2 * inW + 1 by omega]

/-- Settles O3: the word's fields are the ports' words, and a signed value that fits its port is that of its word. -/
theorem cmdWordRoundTripAtEveryPortWidth : Obligations.CmdWordRoundTripAtEveryPortWidth :=
  ⟨fun _ _ hw hp => Ports.ofBits_toBits hw hp, fun _ w _ => ⟨Ports.toBits_ofBits w, Ports.fit_ofBits w⟩⟩

end Sys2Proof

/-! ## What a fetch, an iteration and a MUL leave, field by field -/
namespace Sys2Proof.Machine

@[simp] theorem taken_m (s : State) : (taken s).m = s.m := rfl
@[simp] theorem taken_negm (s : State) : (taken s).negm = s.negm := rfl
@[simp] theorem boothState_taken (s : State) : boothState (taken s) = boothState s := rfl

@[simp] theorem iterated_m (s : State) : (iterated s).m = s.m := rfl
@[simp] theorem iterated_negm (s : State) : (iterated s).negm = s.negm := rfl
@[simp] theorem iterated_qinit (s : State) : (iterated s).qinit = s.qinit := rfl
@[simp] theorem iterated_cnt (s : State) : (iterated s).cnt = s.cnt + 1#3 := rfl
@[simp] theorem iterated_errval (s : State) : (iterated s).errval = s.errval := rfl
@[simp] theorem iterated_errsrc (s : State) : (iterated s).errsrc = s.errsrc := rfl
@[simp] theorem boothState_iterated (s : State) :
    boothState (iterated s) = boothNext s.m s.negm (boothState s) := rfl
@[simp] theorem iterated_trace (s : State) :
    (iterated s).trace = traceSet s.trace (s.cnt + 1#3) (iterationStep s (iterated s)) := rfl

/-- R152: the fourth iteration ends the run, the others leave it in BUSY. -/
theorem iterated_phase {s : State} (hb : s.phase = .busy) :
    (iterated s).phase = if (iterated s).cnt = 4#3 then .done else .busy := by
  rw [← hb]; rfl

/-- R141, R143: MUL with both operands in range starts a run. -/
theorem acceptMul_of_operandOk {m r : Int} (hm : OperandOk m) (hr : OperandOk r) (s : State) :
    acceptMul m r s = initRun m r s := by
  rcases acceptMul_cases m r s with ⟨-, -, h⟩ | ⟨hm', -⟩ | ⟨-, hr', -⟩
  · exact h
  · exact absurd hm hm'
  · exact absurd hr hr'

/-- R56, R36: MUL writes no trace entry. -/
@[simp] theorem acceptMul_trace (m r : Int) (s : State) : (acceptMul m r s).trace = s.trace := by
  rcases acceptMul_cases m r s with ⟨-, -, h⟩ | ⟨-, h⟩ | ⟨-, -, h⟩ <;> rw [h]
  · exact initRun_trace m r s
  · exact takeRangeError_trace _ s
  · exact takeRangeError_trace _ s

end Sys2Proof.Machine

/-! ## The step indices of the trace (R39) -/
namespace Sys2Proof.Machine

theorem stepIndex_iff (i : BitVec 3) : StepIndex i ↔ 1 ≤ i.toNat ∧ i.toNat ≤ 4 := by
  revert i; decide

/-- An iteration within its precondition has an entry to write. -/
theorem stepIndex_cnt_succ {c : BitVec 3} (hc : c.toNat ≤ 3) : StepIndex (c + 1#3) := by
  rw [stepIndex_iff, cnt_succ hc]; omega

theorem ofNat_toNat_succ (c : BitVec 3) : BitVec.ofNat 3 (c.toNat + 1) = c + 1#3 := by
  rw [BitVec.ofNat_add, BitVec.ofNat_toNat, BitVec.setWidth_eq]

/-- The entries of the iterations already made are not the one the next iteration writes. -/
theorem ofNat_succ_ne_cnt_succ {c : BitVec 3} {k : Nat} (hc : c.toNat ≤ 3) (hk : k < c.toNat) :
    BitVec.ofNat 3 (k + 1) ≠ c + 1#3 := by
  intro heq
  have := congrArg BitVec.toNat heq
  rw [cnt_succ hc, BitVec.toNat_ofNat] at this
  omega

theorem exists_traceGet {i : BitVec 3} (hi : StepIndex i) (t : TraceBuf) : ∃ r, traceGet t i = some r := by
  rcases hi with rfl | rfl | rfl | rfl <;> exact ⟨_, rfl⟩

end Sys2Proof.Machine

/-! ## The invariant, operation by operation -/
namespace Sys2Proof.Safety
open Sys2Proof.Machine

theorem inv_of_idle {s : State} (hphase : s.phase = .idle) (hcnt : s.cnt = 0#3) : Inv s where
  counter := by rw [CounterLegal, hphase]; exact hcnt
  negm := by simp [hphase]
  registers := by simp [hphase]
  trace := by simp [hphase]
  payload := by simp [hphase]

/-- The invariant does not read what the host presents. -/
theorem inv_taken {s : State} (h : Inv s) : Inv (taken s) :=
  ⟨h.counter, h.negm, h.registers, h.trace, h.payload⟩

/-- The invariant does not read the outputs of a driven function. -/
theorem inv_setUnitOut {s : State} (o : UnitOut) (h : Inv s) : Inv (setUnitOut o s) :=
  ⟨h.counter, h.negm, h.registers, h.trace, h.payload⟩

/-- INIT starts a run that has made no iteration and has no trace entry yet. -/
theorem inv_initRun (m r : Int) (s : State) : Inv (initRun m r s) where
  counter := show (0#3).toNat ≤ 3 by decide
  negm _ := rfl
  registers _ := rfl
  trace _ k hk := absurd hk (Nat.not_lt_zero k)
  payload := by simp

theorem inv_takeRangeError {e : RangeError} (he : ¬ OperandOk e.value) (s : State) :
    Inv (takeRangeError e s) where
  counter := rfl
  negm := by simp
  registers := by simp
  trace := by simp
  payload _ := he

theorem inv_acceptMul (m r : Int) (s : State) : Inv (acceptMul m r s) := by
  rcases acceptMul_cases m r s with ⟨-, -, h⟩ | ⟨hm, h⟩ | ⟨-, hr, h⟩ <;> rw [h]
  · exact inv_initRun m r s
  · exact inv_takeRangeError hm s
  · exact inv_takeRangeError hr s

section Iteration

variable {s : State} (h : Inv s) (hb : s.phase = .busy)
include h hb

/-- R30: the counter of a run in progress. -/
theorem Inv.cnt_le_three : s.cnt.toNat ≤ 3 := by
  have hc := h.counter
  rwa [CounterLegal, hb] at hc

theorem Inv.counterLegal_iterated : CounterLegal (iterated s) := by
  rw [CounterLegal, iterated_phase hb]
  split_ifs with hfour
  · exact hfour
  · have hcnt : (iterated s).cnt.toNat = s.cnt.toNat + 1 := cnt_succ (h.cnt_le_three hb)
    have hne : (iterated s).cnt.toNat ≠ 4 := fun h4 => hfour (BitVec.eq_of_toNat_eq h4)
    have hle := h.cnt_le_three hb
    show (iterated s).cnt.toNat ≤ 3
    omega

/-- R150: the iteration at level S is the machine's. -/
theorem Inv.boothState_iterated_eq :
    boothState (iterated s) = boothAfter s.m s.negm s.qinit (s.cnt.toNat + 1) := by
  rw [boothState_iterated, h.registers (.inl hb), boothAfter]

/-- R151: the record an iteration appends is the TraceStep of that iteration at level S. -/
theorem Inv.iterationStep_eq :
    iterationStep s (iterated s) = boothStep s.m s.negm s.qinit s.cnt.toNat := by
  simp only [boothStep, ofNat_toNat_succ, ← h.registers (.inl hb), ← h.boothState_iterated_eq hb]
  rfl

/-- R36: an iteration appends its record and leaves those of the iterations before it. -/
theorem Inv.traceGet_iterated {k : Nat} (hk : k ≤ s.cnt.toNat) :
    traceGet (iterated s).trace (BitVec.ofNat 3 (k + 1)) = some (boothStep s.m s.negm s.qinit k) := by
  have hle := h.cnt_le_three hb
  rw [iterated_trace, h.iterationStep_eq hb]
  rcases Nat.lt_or_eq_of_le hk with hold | rfl
  · rw [traceGet_traceSet_other (ofNat_succ_ne_cnt_succ hle hold), h.trace (.inl hb) k hold]
  · rw [ofNat_toNat_succ, traceGet_traceSet_same (stepIndex_cnt_succ hle)]

theorem inv_iterated : Inv (iterated s) where
  counter := h.counterLegal_iterated hb
  negm _ := by rw [iterated_m, iterated_negm, h.negm (.inl hb)]
  registers _ := by
    rw [iterated_m, iterated_negm, iterated_qinit, iterated_cnt, cnt_succ (h.cnt_le_three hb)]
    exact h.boothState_iterated_eq hb
  trace _ k hk := by
    rw [iterated_cnt, cnt_succ (h.cnt_le_three hb)] at hk
    rw [iterated_m, iterated_negm, iterated_qinit]
    exact h.traceGet_iterated hb (Nat.le_of_lt_succ hk)
  payload herr := by
    rw [iterated_phase hb] at herr
    split_ifs at herr

end Iteration

/-- Settles O42: each case of `step_cases` keeps the invariant. -/
theorem stepKeepsInvariant : Obligations.StepKeepsInvariant := by
  intro s t h hstep
  rcases step_cases hstep with rfl | ⟨-, m, r, rfl⟩ | ⟨-, rfl⟩ | ⟨hb, -, rfl⟩ | ⟨o, rfl⟩
  · exact inv_of_idle rfl rfl
  · exact inv_acceptMul m r (taken s)
  · exact inv_taken h
  · exact inv_iterated (inv_taken h) hb
  · exact inv_setUnitOut o (inv_taken h)

/-- Settles O41: `State.reset` is IDLE with CNT 0. -/
theorem resetMeetsInvariant : Obligations.ResetMeetsInvariant := inv_of_idle rfl rfl

end Sys2Proof.Safety

/-! ## The codec and the adder as bit-vector arithmetic -/
namespace Sys2Proof.Machine

/-- R112: the two-step construction is `v` modulo 2^w, for every integer. -/
theorem encBits_eq_ofInt (n : Nat) (v : Int) : encBits n v = BitVec.ofInt (n + 1) v := by
  unfold encBits
  split_ifs with hv
  · obtain ⟨k, rfl⟩ := Int.eq_ofNat_of_zero_le hv
    simp
  · obtain ⟨k, hk⟩ := Int.eq_ofNat_of_zero_le (show 0 ≤ -v by omega)
    obtain rfl : v = -(k : Int) := by omega
    rw [addMod_eq_add, ← BitVec.neg_eq_not_add, BitVec.ofInt_neg, BitVec.ofInt_natCast, Int.natAbs_neg,
      Int.natAbs_natCast]

theorem enc4Bits_eq_ofInt (v : Int) : enc4Bits v = BitVec.ofInt 4 v := encBits_eq_ofInt 3 v

theorem neg4_eq_neg (b : Nib) : neg4 b = -b := neg_eq_neg b

/-- R149, as the rules of ADD_M and SUB_M write it. -/
theorem addMod_eq_ofNat_mod (a b : Nib) : addMod a b = BitVec.ofNat 4 ((a.toNat + b.toNat) % 16) := by
  apply BitVec.eq_of_toNat_eq
  simp [addMod]

theorem msb_eq_ofBool {n : Nat} (b : BitVec (n + 1)) : msb b = BitVec.ofBool b.msb := by
  apply BitVec.eq_of_getLsbD_eq
  intro i hi
  obtain rfl : i = 0 := by omega
  simp [msb, BitVec.msb_eq_getLsbD_last]

/-- R104: DEC_w is the signed value of the word. -/
theorem dec_eq_toInt {n : Nat} (b : BitVec (n + 1)) : dec b = b.toInt := by
  have hneg : addMod (~~~b) 1#(n + 1) = -b := neg_eq_neg b
  rw [dec, hneg, msb_eq_ofBool]
  cases hm : b.msb with
  | true => exact (BitVec.toInt_eq_neg_toNat_neg_of_msb_true hm).symm
  | false => exact (BitVec.toInt_eq_toNat_of_msb hm).symm

theorem dec8_eq_toInt (b : Byte) : dec8 b = b.toInt := dec_eq_toInt (n := 7) b

end Sys2Proof.Machine

/-! ## What an instruction does, and what it leaves unchanged -/
namespace Sys2Proof.Machine

section

variable {s : State} (m r : Int)

/-- R166: in BUSY a MUL is ignored and the run goes on. -/
theorem exec_mul_of_busy (hb : s.phase = .busy) : exec (.mul m r) s = iterate s := if_pos hb

theorem exec_mul_of_not_busy (hb : s.phase ≠ .busy) : exec (.mul m r) s = .next (acceptMul m r s) := if_neg hb

theorem exec_nocmd_of_busy (hb : s.phase = .busy) : exec (.nocmd m r) s = iterate s := if_pos hb

theorem exec_nocmd_of_not_busy (hb : s.phase ≠ .busy) : exec (.nocmd m r) s = .next s := if_neg hb

end

/-- Everything an instruction that answers a next state can have done: RESET, a MUL outside BUSY, one iteration in BUSY,
a change of `A`, `Q`, `Qm1` only (the operations, SHR9, and NOCMD outside BUSY, which changes none), or an output. -/
theorem exec_cases {i : Instr} {s t : State} (h : exec i s = .next t) :
    (∃ start m r, i = .reset start m r ∧ t = resetState s) ∨
    (∃ m r, i = .mul m r ∧ s.phase ≠ .busy ∧ t = acceptMul m r s) ∨
    (s.phase = .busy ∧ s.cnt.toNat ≤ 3 ∧ t = iterated s) ∨
    (∃ b, t = setBooth b s) ∨
    (∃ o, t = setUnitOut o s) := by
  cases i with
  | reset start m r => cases h; exact .inl ⟨start, m, r, rfl, rfl⟩
  | mul m r =>
    by_cases hb : s.phase = .busy
    · rw [exec_mul_of_busy m r hb] at h
      exact .inr (.inr (.inl ⟨hb, iterate_cases h⟩))
    · rw [exec_mul_of_not_busy m r hb] at h
      cases h
      exact .inr (.inl ⟨m, r, rfl, hb, rfl⟩)
  | nocmd m r =>
    by_cases hb : s.phase = .busy
    · rw [exec_nocmd_of_busy m r hb] at h
      exact .inr (.inr (.inl ⟨hb, iterate_cases h⟩))
    · rw [exec_nocmd_of_not_busy m r hb] at h
      cases h
      exact .inr (.inr (.inr (.inl ⟨boothState s, rfl⟩)))
  | nop00 | nop11 => cases h; exact .inr (.inr (.inr (.inl ⟨boothState s, rfl⟩)))
  | addM | subM => cases h; exact .inr (.inr (.inr (.inl ⟨⟨_, s.q, s.qm1⟩, rfl⟩)))
  | shr9 a q g => cases h; exact .inr (.inr (.inr (.inl ⟨shr9 a q g, rfl⟩)))
  | enc4 | dec4 | dec8 | sext48 | neg4 | sra4 | addMod4 | lsb4 | msb4 | concat44 =>
    cases h; exact .inr (.inr (.inr (.inr ⟨_, rfl⟩)))

/-- Settles O25: an in-range MUL is INIT, whose encodings are the operands modulo 16. -/
theorem acceptedMulInitialisesTheRun : Obligations.AcceptedMulInitialisesTheRun := by
  intro s m r hb hm hm' hr hr'
  rw [exec_mul_of_not_busy m r hb, acceptMul_of_operandOk ⟨hm, hm'⟩ ⟨hr, hr'⟩, initRun, neg4_eq_neg,
    enc4Bits_eq_ofInt, enc4Bits_eq_ofInt, BitVec.ofInt_neg]

/-- Settles O35: of the cases of `exec_cases` only RESET and a MUL outside BUSY write these registers. -/
theorem onlyMulAndResetWriteTheRunConstants : Obligations.OnlyMulAndResetWriteTheRunConstants := by
  intro i s t h hreset hmul
  rcases exec_cases h with ⟨start, m, r, hi, -⟩ | ⟨m, r, hi, hb, -⟩ | ⟨-, -, rfl⟩ | ⟨b, rfl⟩ | ⟨o, rfl⟩
  · exact absurd hi (hreset start m r)
  · rcases hmul with hmul | hbusy
    · exact absurd hi (hmul m r)
    · exact absurd hbusy hb
  all_goals simp

/-- Settles O37: only an iteration writes the trace, and only at CNT + 1. -/
theorem traceIsAppendOnly : Obligations.TraceIsAppendOnly := by
  intro i s t j h hreset hne
  rcases exec_cases h with ⟨start, m, r, hi, -⟩ | ⟨m, r, -, -, rfl⟩ | ⟨hb, -, rfl⟩ | ⟨b, rfl⟩ | ⟨o, rfl⟩
  · exact absurd hi (hreset start m r)
  · exact absurd (by rw [acceptMul_trace]) hne
  · have hj : j = s.cnt + 1#3 := by
      by_contra hj
      exact hne (traceGet_traceSet_other hj s.trace _)
    exact ⟨hb, hj, rfl⟩
  all_goals exact absurd rfl hne

/-- Settles O39: of the cases of `step_cases`, an iteration shifts, INIT starts a run, and the others that do not end in
IDLE keep `A`, `Q`, `Qm1`. -/
theorem stepsNeverStopBetweenAddAndShift : Obligations.StepsNeverStopBetweenAddAndShift := by
  intro s t h hidle
  rcases step_cases h with rfl | ⟨-, m, r, rfl⟩ | ⟨-, rfl⟩ | ⟨-, -, rfl⟩ | ⟨o, rfl⟩
  · exact absurd (resetState_phase _) hidle
  · rcases acceptMul_cases m r (taken s) with ⟨-, -, h⟩ | ⟨-, h⟩ | ⟨-, -, h⟩ <;> rw [h]
    · exact .inr (.inr ⟨rfl, rfl, rfl⟩)
    all_goals exact .inl rfl
  · exact .inl (boothState_taken s)
  · exact .inr (.inl (by simp))
  · exact .inl (boothState_taken s)

/-- Settles O17: the adder's sum modulo 16, written to `A`. -/
theorem addMAddsModulo16 : Obligations.AddMAddsModulo16 := by
  intro s
  rw [← addMod_eq_ofNat_mod]
  rfl

/-- Settles O18: as for ADD_M, with NEGM. -/
theorem subMAddsNegmModulo16 : Obligations.SubMAddsNegmModulo16 := by
  intro s
  rw [← addMod_eq_ofNat_mod]
  rfl

/-- Settles O31: in BUSY both commands are ITER, which is outside its precondition. -/
theorem iterationPastTheEndStops : Obligations.IterationPastTheEndStops := by
  intro s m r hb hcnt
  rw [exec_mul_of_busy m r hb, exec_nocmd_of_busy m r hb]
  exact ⟨iterate_pastEnd hcnt, iterate_pastEnd hcnt⟩

end Sys2Proof.Machine

/-! ## What the host reads, phase by phase -/
namespace Sys2Proof.Machine

section

variable {α : Type} (v : View) (x : α) {s : State}

theorem whenDone_of_done (h : s.phase = .done) : whenDone v x s = .ok x := if_pos h

theorem whenDone_of_not_done (h : s.phase ≠ .done) : whenDone v x s = .error (.noValue v) := if_neg h

theorem whenError_of_error (h : s.phase = .error) : whenError v x s = .ok x := if_pos h

theorem whenError_of_not_error (h : s.phase ≠ .error) : whenError v x s = .error (.noValue v) := if_neg h

end

theorem busy_iff (s : State) : busy s = true ↔ s.phase = .busy := beq_iff_eq

theorem done_iff (s : State) : done s = true ↔ s.phase = .done := beq_iff_eq

theorem err_iff (s : State) : err s = true ↔ s.phase = .error := beq_iff_eq

theorem flags_eq_false_iff (s : State) :
    (busy s = false ∧ done s = false ∧ err s = false) ↔ s.phase = .idle := by
  simp only [← Bool.not_eq_true, busy_iff, done_iff, err_iff]
  cases s.phase <;> simp

theorem traceGet_eq_none {i : BitVec 3} (hi : ¬ StepIndex i) (t : TraceBuf) : traceGet t i = none := by
  simp only [StepIndex, not_or] at hi
  obtain ⟨h1, h2, h3, h4⟩ := hi
  rw [traceGet, if_neg h1, if_neg h2, if_neg h3, if_neg h4]

/-- R39: an entry up to CNT is read in DONE. -/
theorem traceRec_of_traceGet {s : State} {idx : BitVec 3} {r : TraceStep} (hd : s.phase = .done)
    (hle : idx.toNat ≤ s.cnt.toNat) (hget : traceGet s.trace idx = some r) :
    traceRec idx s = .ok (packStep r) := by
  rw [traceRec, traceStep, if_pos ⟨hd, hle⟩, hget]

/-- R39, D28: outside DONE, above CNT and where there is no entry, `trace_rec` holds no value. -/
theorem traceRec_eq_noValue {s : State} {idx : BitVec 3}
    (h : s.phase = .done → idx.toNat ≤ s.cnt.toNat → ¬ StepIndex idx) :
    traceRec idx s = .error (.noValue .traceRec) := by
  by_cases hread : s.phase = .done ∧ idx.toNat ≤ s.cnt.toNat
  · rw [traceRec, traceStep, if_pos hread, traceGet_eq_none (h hread.1 hread.2)]
  · rw [traceRec, traceStep, if_neg hread]

end Sys2Proof.Machine

namespace Sys2Proof.Safety
open Sys2Proof.Machine

theorem noResultVisible_of_not_done {s : State} (h : s.phase ≠ .done) : NoResultVisible s :=
  ⟨whenDone_of_not_done _ _ h, whenDone_of_not_done _ _ h, whenDone_of_not_done _ _ h,
    whenDone_of_not_done _ _ h, whenDone_of_not_done _ _ h, fun _ => traceRec_eq_noValue fun hd => absurd hd h⟩

theorem noErrorVisible_of_not_error {s : State} (h : s.phase ≠ .error) : NoErrorVisible s :=
  ⟨whenError_of_not_error _ _ h, whenError_of_not_error _ _ h⟩

/-- Settles O24: the state is `resetState s`, in IDLE. -/
theorem resetCommandClearsEverythingVisible : Obligations.ResetCommandClearsEverythingVisible := by
  intro s
  have hidle : (resetState s).phase = .idle := rfl
  obtain ⟨hbusy, hdone, herr⟩ := (flags_eq_false_iff _).2 hidle
  exact ⟨resetState s, fun _ _ _ => rfl, hidle, rfl, hbusy, hdone, herr,
    noResultVisible_of_not_done (by simp), noErrorVisible_of_not_error (by simp), rfl, rfl⟩

/-- Settles O40: `State.reset` is in IDLE. -/
theorem resetStateShowsNothing : Obligations.ResetStateShowsNothing := by
  have hidle : State.reset.phase = .idle := rfl
  obtain ⟨hbusy, hdone, herr⟩ := (flags_eq_false_iff _).2 hidle
  exact ⟨hidle, rfl, hbusy, hdone, herr,
    noResultVisible_of_not_done (by simp [hidle]), noErrorVisible_of_not_error (by simp [hidle])⟩

/-- Settles O58: each view holds its value in its phase, and DEC_8 is the signed value. -/
theorem outputsInTheirPhase : Obligations.OutputsInTheirPhase := by
  refine ⟨fun s h => ⟨whenError_of_error _ _ h, fun hw => ?_, fun hw => ?_, whenError_of_error _ _ h⟩,
    ⟨rfl, rfl⟩, fun s h => ⟨whenDone_of_done _ _ h, ?_, whenDone_of_done _ _ h, whenDone_of_done _ _ h,
      whenDone_of_done _ _ h, rfl⟩⟩
  · rw [errSrc, whenError_of_error _ _ h, hw, whichBit]
  · rw [errSrc, whenError_of_error _ _ h, hw, whichBit]
  · rw [productDec, whenDone_of_done _ _ h, dec8_eq_toInt, concat]

/-- Settles O59: the entries 1 to 4 exist, and with CNT = 4 they are the ones read. -/
theorem traceIsReadAtItsIndices : Obligations.TraceIsReadAtItsIndices := by
  refine ⟨fun s idx hd hcnt => ⟨fun hidx => ?_, fun hidx => ?_⟩, fun s idx h => ?_⟩
  · obtain ⟨t, ht⟩ := exists_traceGet ((stepIndex_iff idx).2 hidx) s.trace
    exact ⟨t, ht, traceRec_of_traceGet hd (by rw [hcnt]; exact hidx.2) ht⟩
  · refine traceRec_eq_noValue fun _ _ => ?_
    rw [stepIndex_iff]
    omega
  · exact traceRec_eq_noValue fun hd => absurd hd h

/-- Settles O60: a flag is the test for one phase. -/
theorem atMostOneFlag : Obligations.AtMostOneFlag := by
  refine ⟨fun s => ⟨busy_iff s, done_iff s, err_iff s, ?_, ?_, ?_, flags_eq_false_iff s⟩,
    (flags_eq_false_iff _).2 rfl⟩
  all_goals
    simp only [busy_iff, done_iff, err_iff]
    rintro ⟨h, h'⟩
    simp [h] at h'

end Sys2Proof.Safety

/-! ## Runs: the invariant along them, and a run in progress under edges without reset -/
namespace Sys2Proof.Machine

/-- A run that answers a next state answers one at its first step. -/
theorem run_succ_cases {k : Nat} {s t : State} (h : Host.Core.run core (k + 1) s = .next t) :
    ∃ u, step s = .next u ∧ Host.Core.run core k u = .next t := by
  cases hstep : step s with
  | next u => exact ⟨u, rfl, by rwa [run_succ hstep] at h⟩
  | fault f =>
    have hstep' : core.step s = .fault f := hstep
    simp [Host.Core.run, hstep'] at h
  | refused r =>
    have hstep' : core.step s = .refused r := hstep
    simp [Host.Core.run, hstep'] at h

end Sys2Proof.Machine

namespace Sys2Proof.Safety
open Sys2Proof.Machine

theorem inv_run {k : Nat} {s t : State} (h : Inv s) (hrun : Host.Core.run core k s = .next t) : Inv t := by
  induction k generalizing s with
  | zero => cases hrun; exact h
  | succ k ih =>
    obtain ⟨u, hstep, hrest⟩ := run_succ_cases hrun
    exact ih (stepKeepsInvariant s u h hstep) hrest

/-- R152: the phase of a run, in progress or finished, by its counter. -/
abbrev RunPhase (s : State) : Prop := s.phase = if s.cnt = 4#3 then .done else .busy

/-- `t` is `k` iterations further in the run of `s`: its constants are the same and its counter is `k` more. -/
structure AdvancedBy (k : Nat) (s t : State) : Prop where
  phase : RunPhase t
  cnt : t.cnt.toNat = s.cnt.toNat + k
  m : t.m = s.m
  negm : t.negm = s.negm
  qinit : t.qinit = s.qinit

theorem RunPhase.inRun {s : State} (h : RunPhase s) : InRun s := by
  by_cases hc : s.cnt = 4#3
  · exact .inr (by rw [h, if_pos hc])
  · exact .inl (by rw [h, if_neg hc])

theorem RunPhase.busy {s : State} (h : RunPhase s) (hc : s.cnt.toNat ≤ 3) : s.phase = .busy := by
  rw [h, if_neg]
  intro h4
  simp [h4] at hc

/-- R220, R166: edges without reset, no more than the run has left, each make one iteration, whatever else they carry. -/
theorem run_advancedBy {s : State} {ps : List Ports} {rest : List Stimulus} (hphase : RunPhase s)
    (hlen : s.cnt.toNat + ps.length ≤ 4) (hrst : NoReset ps) (hhost : Presents s ps rest) :
    ∃ t, Host.Core.run core ps.length s = .next t ∧ AdvancedBy ps.length s t ∧ t.host = rest := by
  induction ps generalizing s with
  | nil => exact ⟨s, run_zero s, ⟨hphase, rfl, rfl, rfl, rfl⟩, hhost⟩
  | cons p ps ih =>
    rw [List.length_cons] at hlen ⊢
    obtain ⟨hp, hps⟩ := List.forall_mem_cons.1 hrst
    have hle : s.cnt.toNat ≤ 3 := by omega
    have hb := hphase.busy hle
    let s₁ : State := iterated { s with host := ps.map Stimulus.clock ++ rest }
    have hstep : step s = .next s₁ := step_clock_busy hhost hp hb hle
    have hcnt : s₁.cnt.toNat = s.cnt.toNat + 1 := cnt_succ hle
    obtain ⟨t, hrun, hadv, hrest⟩ := ih (s := s₁) (iterated_phase hb) (by omega) hps rfl
    refine ⟨t, by rw [run_succ hstep, hrun], ⟨hadv.phase, ?_, hadv.m, hadv.negm, hadv.qinit⟩, hrest⟩
    rw [hadv.cnt, hcnt]
    omega

end Sys2Proof.Safety

/-! ## Isolation: what a run shows is decided by its constants and its counter -/
namespace Sys2Proof.Safety
open Sys2Proof.Machine

/-- Two states of the invariant, in runs with the same constants and at the same point of them. -/
structure SameRun (s t : State) : Prop where
  inv_left : Inv s
  inv_right : Inv t
  inRun : InRun s
  phase : s.phase = t.phase
  cnt : s.cnt = t.cnt
  m : s.m = t.m
  qinit : s.qinit = t.qinit

section SameRun

variable {s t : State} (h : SameRun s t)
include h

theorem SameRun.inRun_right : InRun t := by
  rw [InRun, ← h.phase]
  exact h.inRun

theorem SameRun.negm : s.negm = t.negm := by
  rw [h.inv_left.negm h.inRun, h.inv_right.negm h.inRun_right, h.m]

theorem SameRun.boothState : boothState s = boothState t := by
  rw [h.inv_left.registers h.inRun, h.inv_right.registers h.inRun_right, h.negm, h.m, h.qinit, h.cnt]

/-- The entries that both show are those of the same iterations at level S. -/
theorem SameRun.traceRec (idx : BitVec 3) : traceRec idx s = traceRec idx t := by
  by_cases hread : s.phase = .done ∧ idx.toNat ≤ s.cnt.toNat ∧ StepIndex idx
  · obtain ⟨hd, hle, hidx⟩ := hread
    obtain ⟨k, hk⟩ := Nat.exists_eq_add_of_le' ((stepIndex_iff idx).1 hidx).1
    have hofNat : BitVec.ofNat 3 (k + 1) = idx := by rw [← hk, BitVec.ofNat_toNat, BitVec.setWidth_eq]
    have hget := h.inv_left.trace h.inRun k (by omega)
    have hget' := h.inv_right.trace h.inRun_right k (by rw [← h.cnt]; omega)
    rw [hofNat] at hget hget'
    rw [traceRec_of_traceGet hd hle hget, traceRec_of_traceGet (h.phase ▸ hd) (h.cnt ▸ hle) hget',
      h.negm, h.m, h.qinit]
  · have hunread : s.phase = .done → idx.toNat ≤ s.cnt.toNat → ¬ StepIndex idx :=
      fun hd hle hidx => hread ⟨hd, hle, hidx⟩
    rw [traceRec_eq_noValue hunread, traceRec_eq_noValue (h.phase ▸ h.cnt ▸ hunread)]

theorem SameRun.sameOutputs : SameOutputs s t := by
  have ha : s.a = t.a := congrArg BoothState.a h.boothState
  have hq : s.q = t.q := congrArg BoothState.q h.boothState
  have hnoError : s.phase ≠ .error := by rcases h.inRun with hp | hp <;> simp [hp]
  obtain ⟨hval, hsrc⟩ := noErrorVisible_of_not_error hnoError
  obtain ⟨hval', hsrc'⟩ := noErrorVisible_of_not_error (h.phase ▸ hnoError)
  refine ⟨?busy, ?done, ?err, ?productBin, ?productDec, ?mEnc, ?negmEnc, ?qInit, h.cnt, h.traceRec,
    hval.trans hval'.symm, hsrc.trans hsrc'.symm⟩
  case busy => simp only [busy, h.phase]
  case done => simp only [done, h.phase]
  case err => simp only [err, h.phase]
  case productBin => simp only [productBin, whenDone, h.phase, ha, hq]
  case productDec => simp only [productDec, whenDone, h.phase, ha, hq]
  case mEnc => simp only [mEnc, whenDone, h.phase, h.m]
  case negmEnc => simp only [negmEnc, whenDone, h.phase, h.negm]
  case qInit => simp only [qInit, whenDone, h.phase, h.qinit]

end SameRun

/-- R141, R157: an accepted MUL and then edges without reset, at most four, complete in a run of the invariant whose
constants are the operands' encodings and whose counter is the number of those edges. -/
theorem run_of_acceptedMul {s : State} {m r : Int} {ps : List Ports} {rest : List Stimulus}
    (hb : s.phase ≠ .busy) (hm : OperandOk m) (hr : OperandOk r) (hrst : NoReset ps) (hlen : ps.length ≤ 4)
    (hhost : Presents s (⟨false, true, m, r⟩ :: ps) rest) :
    ∃ t, Host.Core.run core (ps.length + 1) s = .next t ∧ Inv t ∧ t.host = rest ∧ RunPhase t ∧
      t.cnt.toNat = ps.length ∧ t.m = enc4Bits m ∧ t.qinit = enc4Bits r := by
  let s₀ : State := initRun m r { s with host := ps.map Stimulus.clock ++ rest }
  have hstep : step s = .next s₀ := by
    have hexec := exec_mul_of_not_busy (s := { s with host := ps.map Stimulus.clock ++ rest }) m r hb
    rw [acceptMul_of_operandOk hm hr] at hexec
    rw [step_clock hhost]
    exact hexec
  obtain ⟨t, hrun, hadv, hrest⟩ := run_advancedBy (s := s₀) rfl ((Nat.zero_add _).trans_le hlen) hrst rfl
  exact ⟨t, by rw [run_succ hstep, hrun], inv_run (inv_initRun m r _) hrun, hrest, hadv.phase,
    hadv.cnt.trans (Nat.zero_add _), hadv.m, hadv.qinit⟩

/-- Settles O46: both runs reach states of the invariant with the same constants and counter. -/
theorem runsAreIsolated : Obligations.RunsAreIsolated := by
  intro s s' m r ps ps' rest rest' hb hb' hm hr hrst hrst' hlen hlen' hhost hhost'
  obtain ⟨t, hrun, hinv, -, hphase, hcnt, htm, htq⟩ := run_of_acceptedMul hb hm hr hrst hlen hhost
  obtain ⟨t', hrun', hinv', -, hphase', hcnt', htm', htq'⟩ :=
    run_of_acceptedMul hb' hm hr hrst' (hlen' ▸ hlen) hhost'
  have hcnts : t.cnt = t'.cnt := BitVec.eq_of_toNat_eq (by rw [hcnt, hcnt', hlen'])
  have hphases : t.phase = t'.phase := by rw [hphase, hphase', hcnts]
  rw [hlen'] at hrun'
  have hsame : SameRun t t' :=
    ⟨hinv, hinv', hphase.inRun, hphases, hcnts, htm.trans htm'.symm, htq.trans htq'.symm⟩
  exact ⟨t, t', hrun, hrun', hsame.sameOutputs⟩

end Sys2Proof.Safety

/-! ## The combined shift, bit by bit, and the instruction an iteration decodes -/
namespace Sys2Proof.Machine

/-- The shift that SHR9 makes of a nibble (R122): below the bit that enters at the top, each bit is the next higher one. -/
theorem getLsbD_concat_extractLsb'_of_lt (top : Bit) (b : Nib) {i : Nat} (hi : i < 3) :
    (concat top (b.extractLsb' 1 3)).getLsbD i = b.getLsbD (i + 1) := by
  rw [concat, BitVec.getLsbD_append]
  simp [hi, Nat.add_comm]

theorem getLsbD_concat_extractLsb'_three (top : Bit) (b : Nib) :
    (concat top (b.extractLsb' 1 3)).getLsbD 3 = top.getLsbD 0 := by
  rw [concat, BitVec.getLsbD_append, if_neg (by decide)]

theorem getLsbD_lsb {w : Nat} (b : BitVec w) : (lsb b).getLsbD 0 = b.getLsbD 0 := by
  simp [lsb]

theorem getLsbD_msb {n : Nat} (b : BitVec (n + 1)) : (msb b).getLsbD 0 = b.getLsbD n := by
  simp [msb]

section

variable (a q : Nib) (g : Bit) {i : Nat}

theorem getLsbD_shr9_a_of_lt (hi : i < 3) : (shr9 a q g).a.getLsbD i = a.getLsbD (i + 1) :=
  getLsbD_concat_extractLsb'_of_lt (msb a) a hi

/-- R122: the sign of the accumulator is replicated. -/
theorem getLsbD_shr9_a_three : (shr9 a q g).a.getLsbD 3 = a.getLsbD 3 :=
  (getLsbD_concat_extractLsb'_three (msb a) a).trans (getLsbD_msb a)

theorem getLsbD_shr9_q_of_lt (hi : i < 3) : (shr9 a q g).q.getLsbD i = q.getLsbD (i + 1) :=
  getLsbD_concat_extractLsb'_of_lt (lsb a) q hi

/-- R122: the accumulator's lowest bit enters `Q` at the top. -/
theorem getLsbD_shr9_q_three : (shr9 a q g).q.getLsbD 3 = a.getLsbD 0 :=
  (getLsbD_concat_extractLsb'_three (lsb a) q).trans (getLsbD_lsb a)

/-- R122: the lowest bit of `Q` becomes the guard bit. -/
theorem getLsbD_shr9_qm1 : (shr9 a q g).qm1.getLsbD 0 = q.getLsbD 0 := getLsbD_lsb q

end

/-- Settles O19: SHR9 writes the three registers of `shr9`, which is known bit by bit. -/
theorem combinedShiftWritesThreeRegisters : Obligations.CombinedShiftWritesThreeRegisters := by
  intro a q g s
  refine ⟨setBooth (shr9 a q g) s, rfl, rfl, getLsbD_shr9_qm1 a q g, ?_, ?_⟩
  · rw [setBooth_q]
    exact ⟨getLsbD_shr9_q_three a q g, getLsbD_shr9_q_of_lt a q g (by decide),
      getLsbD_shr9_q_of_lt a q g (by decide), getLsbD_shr9_q_of_lt a q g (by decide)⟩
  · rw [setBooth_a]
    exact ⟨getLsbD_shr9_a_three a q g, getLsbD_shr9_a_of_lt a q g (by decide),
      getLsbD_shr9_a_of_lt a q g (by decide), getLsbD_shr9_a_of_lt a q g (by decide)⟩

/-- R76: the instruction a pattern decodes to is the operation the iteration selects. -/
theorem exec_decode_rp2 (pat : Pattern) (s : State) : exec (decode (.rp2 pat)) s = operate pat s := by
  have h : pat = 0b00#2 ∨ pat = 0b01#2 ∨ pat = 0b10#2 ∨ pat = 0b11#2 := by
    revert pat; decide
  rcases h with rfl | rfl | rfl | rfl <;> rfl

/-- Settles O33: the decoded operation leaves `A_op` in `A`, SHR9 then makes the next state of level S, and `iterated`
is `completeIteration` of that. -/
theorem iterationRunsTheDecodedPattern : Obligations.IterationRunsTheDecodedPattern := by
  intro s x y hb hcnt
  refine ⟨setA (accumulatorOp (recodeOp (recodePattern s.q s.qm1)) s.a s.m s.negm) s,
    setBooth (boothNext s.m s.negm (boothState s)) s, ?_, rfl, ?_⟩
  · rw [exec_decode_rp2]
    exact operate_eq (recodePattern s.q s.qm1) s
  · rw [exec_nocmd_of_busy x y hb]
    exact iterate_next hcnt

end Sys2Proof.Machine

/-! ## The multiplier's bits in the registers of a run (R161) -/
namespace Sys2Proof.Machine

section

variable (m negm qinit : Nib) {k : Nat}

/-- After `k` iterations the low bits of `Q` are the multiplier's bits not yet shifted out: what the additions leave in
`A` enters `Q` above them. -/
theorem getLsbD_boothAfter_q {j : Nat} (h : j + k < 4) :
    (boothAfter m negm qinit k).q.getLsbD j = qinit.getLsbD (j + k) := by
  induction k generalizing j with
  | zero => rfl
  | succ k ih =>
    have hj : j < 3 := by omega
    have hshift : j + 1 + k = j + (k + 1) := by omega
    rw [boothAfter, boothNext, getLsbD_shr9_q_of_lt _ _ _ hj, ih (hshift ▸ h), hshift]

theorem lsb_boothAfter_q (hk : k < 4) : lsb (boothAfter m negm qinit k).q = qinit.extractLsb' k 1 := by
  apply BitVec.eq_of_getLsbD_eq
  intro i hi
  obtain rfl : i = 0 := by omega
  rw [getLsbD_lsb, getLsbD_boothAfter_q m negm qinit (by omega)]
  simp

/-- The guard bit is the multiplier's bit that the last shift took out. -/
theorem boothAfter_succ_qm1 (hk : k < 4) : (boothAfter m negm qinit (k + 1)).qm1 = qinit.extractLsb' k 1 :=
  lsb_boothAfter_q m negm qinit hk

end

/-- Settles O52: `Q[0]` and `Qm1` are two neighbouring bits of the multiplier, and 0 stands below the lowest. -/
theorem patternsDependOnTheMultiplierAlone : Obligations.PatternsDependOnTheMultiplierAlone := by
  intro m negm q
  refine ⟨rfl, fun k hpos hle => ?_⟩
  obtain ⟨k, rfl⟩ := Nat.exists_eq_add_of_le' hpos
  rw [recodePattern, lsb_boothAfter_q m negm q (by omega), boothAfter_succ_qm1 m negm q (by omega)]
  exact BitVec.extractLsb'_append_extractLsb'_eq_extractLsb' (by omega)

end Sys2Proof.Machine

/-! ## Decoder and encoder, place by place (R77) -/
namespace Sys2Proof

/-- R76, R77: there are four patterns and no other. -/
theorem pattern_cases (p : Pattern) : p = 0b00#2 ∨ p = 0b01#2 ∨ p = 0b10#2 ∨ p = 0b11#2 := by
  revert p; decide

theorem encode_decodePattern (p : Pattern) : encode (decodePattern p) = .rp2 p := by
  rcases pattern_cases p with rfl | rfl | rfl | rfl <;> rfl

theorem decodePattern_wf (p : Pattern) : (decodePattern p).WellFormed := by
  rcases pattern_cases p with rfl | rfl | rfl | rfl <;> rfl

/-- R78, R79: the word of a command is that of the ports it was read from. -/
theorem encode_command (p : Ports) : encode p.command = .cmd (Ports.toBits Config.inW p) := by
  rcases p with ⟨_ | _, _ | _, m, r⟩ <;> rfl

/-- R7: a command is encodable exactly when its operands fit their ports. -/
theorem command_wf_iff (p : Ports) : p.command.WellFormed ↔ p.Fit Config.inW := by
  have hwf : p.command.wf =
      (decide (FitsPort Config.inW p.multiplicand) && decide (FitsPort Config.inW p.multiplier)) := by
    rcases p with ⟨_ | _, _ | _, m, r⟩ <;> rfl
  rw [Instr.WellFormed, hwf, Bool.and_eq_true, decide_eq_true_iff, decide_eq_true_iff]

theorem decode_encode_command {p : Ports} (hwf : p.command.WellFormed) :
    decode (encode p.command) = p.command := by
  rw [encode_command, decode, Ports.ofBits_toBits (by decide) ((command_wf_iff p).1 hwf)]

/-- R74: SHREG has its three fields at bits 8:5, 4:1 and 0. -/
theorem decodeShift_append (a q : Nib) (g : Bit) : decodeShift (a ++ q ++ g) = .shr9 a q g := by
  have ha : (a ++ q ++ g).extractLsb' 5 4 = a := by
    rw [BitVec.extractLsb'_append_eq_of_le (by decide)]
    exact BitVec.extractLsb'_append_eq_left
  have hq : (a ++ q ++ g).extractLsb' 1 4 = q := by
    rw [BitVec.extractLsb'_append_eq_of_le (by decide)]
    exact BitVec.extractLsb'_append_eq_right
  have hg : (a ++ q ++ g).extractLsb' 0 1 = g := BitVec.extractLsb'_append_eq_right
  rw [decodeShift, ha, hq, hg]

theorem encode_decodeShift (w : BitVec 9) : encode (decodeShift w) = .shreg w := by
  rw [decodeShift, encode, BitVec.extractLsb'_append_extractLsb'_eq_extractLsb' (by decide),
    BitVec.extractLsb'_append_extractLsb'_eq_extractLsb' (by decide)]
  exact congrArg Code.shreg BitVec.extractLsb'_eq_self

/-- R72, R73: the high and the low half of a byte are its two nibbles. -/
theorem append_nibbles (w : Byte) : w.extractLsb' 4 4 ++ w.extractLsb' 0 4 = w := by
  rw [BitVec.extractLsb'_append_extractLsb'_eq_extractLsb' (by decide)]
  exact BitVec.extractLsb'_eq_self

theorem encode_decodeWired (u : UnitInput) : encode (decodeWired u) = .wired u := by
  cases u with
  | enc4 k w => rw [decodeWired, encode, BitVec.ofInt_toInt]
  | dec8 w | addMod4 w | concat44 w => rw [decodeWired, encode, append_nibbles]
  | dec4 | sext48 | neg4 | sra4 | lsb4 | msb4 => rfl

/-- Only ENC_4 has an operand wider than its encoding, and a port word's value fits the port. -/
theorem decodeWired_wf (u : UnitInput) : (decodeWired u).WellFormed := by
  cases u with
  | enc4 k w => exact decide_eq_true (FitsPort.of_toInt w)
  | dec4 | dec8 | sext48 | neg4 | sra4 | addMod4 | lsb4 | msb4 | concat44 => rfl

/-- Settles O1: the commands by the CMD word of their ports, the others by the fields of their word. -/
theorem decodeOfEncode : Obligations.DecodeOfEncode := by
  intro i hwf
  cases i with
  | nop00 | addM | subM | nop11 => rfl
  | reset start m r => exact decode_encode_command (p := ⟨true, start, m, r⟩) hwf
  | mul m r => exact decode_encode_command (p := ⟨false, true, m, r⟩) hwf
  | nocmd m r => exact decode_encode_command (p := ⟨false, false, m, r⟩) hwf
  | shr9 a q g => exact decodeShift_append a q g
  | enc4 v =>
    have hv : FitsPort Config.inW v.value := of_decide_eq_true hwf
    rw [encode, decode, decodeWired, hv.toInt_ofInt (by decide)]
  | dec8 a b | addMod4 a b | concat44 a b =>
    rw [encode, decode, decodeWired, BitVec.extractLsb'_append_eq_left, BitVec.extractLsb'_append_eq_right]
  | dec4 | sext48 | neg4 | sra4 | lsb4 | msb4 => rfl

/-- Settles O2: one lemma for each place a word is read at. -/
theorem encodeOfDecode : Obligations.EncodeOfDecode := by
  intro c
  cases c with
  | cmd w =>
    exact ⟨(encode_command _).trans (congrArg Code.cmd (Ports.toBits_ofBits w)),
      (command_wf_iff _).2 (Ports.fit_ofBits w)⟩
  | rp2 p => exact ⟨encode_decodePattern p, decodePattern_wf p⟩
  | shreg w => exact ⟨encode_decodeShift w, rfl⟩
  | wired u => exact ⟨encode_decodeWired u, decodeWired_wf u⟩

/-- R78 at the default port width: the fields of a CMD word. -/
theorem decode_cmd (w : BitVec 18) :
    decode (.cmd w) = Ports.command
      ⟨w.getLsbD 17, w.getLsbD 16, (w.extractLsb' 8 8).toInt, (w.extractLsb' 0 8).toInt⟩ := rfl

/-- Settles O4: `rst` is looked at before `start`. -/
theorem commandWordsDecodeByTheirFirstTwoBits : Obligations.CommandWordsDecodeByTheirFirstTwoBits := by
  intro w
  rw [decode_cmd]
  refine ⟨fun hrst => ?_, fun hrst hstart => ?_, fun hrst hstart => ?_⟩
  · exact if_pos hrst
  · rw [Ports.command, if_neg (Bool.eq_false_iff.1 hrst), if_pos hstart]
  · rw [Ports.command, if_neg (Bool.eq_false_iff.1 hrst), if_neg (Bool.eq_false_iff.1 hstart)]

/-- Settles O5: these words are evaluated by the decoder. -/
theorem printedWordsDecode : Obligations.PrintedWordsDecode :=
  ⟨rfl, rfl, rfl, rfl, rfl, rfl, rfl, rfl, rfl, rfl, rfl⟩

/-- Settles O6: the patterns by their four cases; every other place is read by its fields. -/
theorem otherWordsDecodeByTheirFields : Obligations.OtherWordsDecodeByTheirFields := by
  refine ⟨fun p => ?_, fun _ => rfl, fun _ _ => rfl, fun _ => ⟨rfl, rfl, rfl⟩,
    fun _ => ⟨rfl, rfl, rfl, rfl, rfl, rfl⟩⟩
  rcases pattern_cases p with rfl | rfl | rfl | rfl <;> rfl

end Sys2Proof

/-! ## The packed trace record, field by field (R80, R81) -/
namespace Sys2Proof.Machine

@[simp] theorem opOfCode_opCode (op : Op) : opOfCode (opCode op) = some op := by
  cases op <;> rfl

/-- R81, V7: the code 3 is reserved, and it is the only one. -/
theorem opOfCode_eq_none_iff (c : BitVec 2) : opOfCode c = none ↔ c = 3#2 := by
  revert c; decide

theorem opCode_of_opOfCode {c : BitVec 2} {op : Op} (h : opOfCode c = some op) : opCode op = c := by
  cases op <;> revert c <;> decide

/-- Settles O7: below each field lie the fields after it in R80, whose widths sum to its position. -/
theorem traceRecordLayout : Obligations.TraceRecordLayout := by
  intro t
  refine ⟨?idx, ?aPre, ?qPre, ?qm1Pre, ?pat, ?op, ?aPost, ?qPost, ?qm1Post⟩
  all_goals simp (disch := decide) only [packStep, BitVec.extractLsb'_append_eq_of_le]
  case idx => exact BitVec.extractLsb'_eq_self
  all_goals exact BitVec.extractLsb'_append_eq_right

theorem unpackStep_packStep (t : TraceStep) : unpackStep (packStep t) = some t := by
  obtain ⟨hidx, haPre, hqPre, hqm1Pre, hpat, hop, haPost, hqPost, hqm1Post⟩ := traceRecordLayout t
  have hop : (packStep t).extractLsb' 9 2 = opCode t.op := hop
  simp only [unpackStep, hidx, haPre, hqPre, hqm1Pre, hpat, hop, opOfCode_opCode, haPost, hqPost, hqm1Post]

/-- V7: only a reserved `op` field keeps a word from being a record. -/
theorem unpackStep_eq_none_iff (w : BitVec 25) : unpackStep w = none ↔ w.extractLsb' 9 2 = 3#2 := by
  rw [← opOfCode_eq_none_iff, unpackStep]
  cases opOfCode (w.extractLsb' 9 2) <;> simp

/-- The nine fields of R80 lie side by side and fill the word. -/
theorem packStep_of_unpackStep {w : BitVec 25} {t : TraceStep} (h : unpackStep w = some t) : packStep t = w := by
  rw [unpackStep] at h
  split at h
  · cases h
  · next op hop =>
    cases h
    simp (disch := decide) only [packStep, opCode_of_opOfCode hop,
      BitVec.extractLsb'_append_extractLsb'_eq_extractLsb']
    exact BitVec.extractLsb'_eq_self

/-- Settles O8: a word unpacks unless its `op` field is reserved, and packing undoes unpacking. -/
theorem traceRecordRoundTrip : Obligations.TraceRecordRoundTrip := by
  refine ⟨unpackStep_packStep, fun w => (unpackStep_eq_none_iff w).2, fun w hop => ?_⟩
  obtain ⟨t, ht⟩ := Option.ne_none_iff_exists'.1 (mt (unpackStep_eq_none_iff w).1 hop)
  exact ⟨t, ht, packStep_of_unpackStep ht⟩

end Sys2Proof.Machine

/-! ## Steps complete, and run what the host presents -/
namespace Sys2Proof.Machine

/-- R77, R183: an instruction can stop only by an iteration outside its precondition (log 8). -/
theorem exec_next_of_cnt (i : Instr) {s : State} (hcnt : s.phase = .busy → s.cnt.toNat ≤ 3) :
    ∃ t, exec i s = .next t := by
  cases i with
  | mul m r =>
    by_cases hb : s.phase = .busy
    · exact ⟨_, (exec_mul_of_busy m r hb).trans (iterate_next (hcnt hb))⟩
    · exact ⟨_, exec_mul_of_not_busy m r hb⟩
  | nocmd m r =>
    by_cases hb : s.phase = .busy
    · exact ⟨_, (exec_nocmd_of_busy m r hb).trans (iterate_next (hcnt hb))⟩
    · exact ⟨_, exec_nocmd_of_not_busy m r hb⟩
  | nop00 | addM | subM | nop11 | reset | shr9 | enc4 | dec4 | dec8 | sext48 | neg4 | sra4 | addMod4 | lsb4
  | msb4 | concat44 => exact ⟨_, rfl⟩

section

variable {s : State}

theorem step_quiet (h : s.host = []) : step s = exec (.nocmd 0 0) s := by
  simp only [step, fetch, h]
  rfl

theorem step_drive {u : UnitInput} {rest : List Stimulus} (h : s.host = .drive u :: rest) :
    step s = exec (decode (.wired u)) { s with host := rest } := by
  simp only [step, fetch, h]

end

/-- Settles O32: one lemma for each thing the host can present. -/
theorem stepRunsThePresentedInstruction : Obligations.StepRunsThePresentedInstruction := fun _ =>
  ⟨step_quiet, fun _ _ => step_clock, fun _ _ => step_drive, fun _ => rfl⟩

/-- Settles O16: neither operation writes a register. -/
theorem noOperationChangesNothing : Obligations.NoOperationChangesNothing := fun _ => ⟨rfl, rfl⟩

/-- Settles O20: the operand test is the range of the statement, and the bits are the value modulo 16. -/
theorem encoderAnswers : Obligations.EncoderAnswers := by
  intro k v s
  have hexec : exec (.enc4 ⟨k, v⟩) s = .next (setUnitOut (enc4Out ⟨k, v⟩) s) := rfl
  rw [hexec, enc4Out_eq]
  refine ⟨fun hin => ?_, fun hout => ?_⟩
  · rw [if_pos hin, enc4Bits_eq_ofInt]
    rfl
  · have hnot : ¬ (-8 ≤ v ∧ v ≤ 7) := by omega
    rw [if_neg hnot]
    rfl

end Sys2Proof.Machine

namespace Sys2Proof.Safety
open Sys2Proof.Machine

/-- Settles O43: the invariant bounds the counter of a run in progress. -/
theorem stepsFromTheInvariantComplete : Obligations.StepsFromTheInvariantComplete := by
  intro s h
  rw [step, (fetch_cases s).1]
  exact exec_next_of_cnt _ fun hb => (inv_taken h).cnt_le_three hb

end Sys2Proof.Safety

/-! ## The codec at every width: range, round trips, sign extension -/
namespace Sys2Proof.Machine

/-- R112: in range, ENC_w is `v` modulo 2^w. -/
theorem enc_eq_ofInt {n : Nat} {v : Int} (h : InRange n v) : enc n v = .ok (BitVec.ofInt (n + 1) v) := by
  rw [enc_ok h, encBits_eq_ofInt]

/-- R111: a value in range is the decoded value of its bits. -/
theorem dec_ofInt {n : Nat} {v : Int} (h : InRange n v) : dec (BitVec.ofInt (n + 1) v) = v := by
  rw [dec_eq_toInt]
  exact FitsPort.toInt_ofInt (Nat.le_add_left 1 n) h

/-- R104: DEC_w answers in the range of `w` bits. -/
theorem inRange_dec {n : Nat} (b : BitVec (n + 1)) : InRange n (dec b) := by
  rw [dec_eq_toInt]
  exact FitsPort.of_toInt b

/-- R111: ENC_w undoes DEC_w. -/
theorem enc_dec {n : Nat} (b : BitVec (n + 1)) : enc n (dec b) = .ok b := by
  rw [enc_eq_ofInt (inRange_dec b), dec_eq_toInt, BitVec.ofInt_toInt]

theorem dec4_eq_toInt (b : Nib) : dec4 b = b.toInt := dec_eq_toInt (n := 3) b

/-- The sign bit is the top bit. -/
theorem msb_eq_getLsbD {n : Nat} (b : BitVec (n + 1)) : b.msb = b.getLsbD n :=
  BitVec.msb_eq_getLsbD_last b

theorem getLsbD_replicate_msb {n : Nat} (k i : Nat) (b : BitVec (n + 1)) :
    (BitVec.replicate k (msb b)).getLsbD i = (decide (i < k) && b.msb) := by
  rw [BitVec.getLsbD_replicate, Nat.one_mul, Nat.mod_one, getLsbD_msb, msb_eq_getLsbD]

/-- R107: padding with copies of the sign bit is sign extension. -/
theorem sext_eq_signExtend {n t : Nat} (h : n + 1 ≤ t) (b : BitVec (n + 1)) : sext h b = b.signExtend t := by
  apply BitVec.eq_of_getLsbD_eq
  intro i hi
  rw [sext, concat, BitVec.getLsbD_cast, BitVec.getLsbD_append, BitVec.getLsbD_signExtend, getLsbD_replicate_msb]
  by_cases hlow : i < n + 1
  · simp [hi, hlow]
  · simp [hi, hlow, show i - (n + 1) < t - (n + 1) by omega]

section

variable {n t : Nat} (h : n + 1 ≤ t) (b : BitVec (n + 1)) {i : Nat}

theorem getLsbD_sext_of_le (hi : i ≤ n) : (sext h b).getLsbD i = b.getLsbD i := by
  rw [sext_eq_signExtend, BitVec.getLsbD_signExtend]
  simp [show i < t by omega, show i < n + 1 by omega]

theorem getLsbD_sext_of_gt (hi : n < i) (hit : i < t) : (sext h b).getLsbD i = b.getLsbD n := by
  rw [sext_eq_signExtend, BitVec.getLsbD_signExtend, msb_eq_getLsbD]
  simp [hit, show ¬ i < n + 1 by omega]

end

/-- R107: the padding keeps the value. -/
theorem dec_sext {n t : Nat} (h : n + 1 ≤ t + 1) (b : BitVec (n + 1)) : dec (sext h b) = dec b := by
  rw [dec_eq_toInt, dec_eq_toInt, sext_eq_signExtend, BitVec.toInt_signExtend_of_le h]

/-- R109: NEG_4 is subtraction from 16, modulo 16. -/
theorem toNat_neg4 (b : Nib) : (neg4 b).toNat = (16 - b.toNat) % 16 := by
  rw [neg4_eq_neg]
  exact BitVec.toNat_neg b

theorem neg4_eq_ofNat (b : Nib) : neg4 b = BitVec.ofNat 4 ((16 - b.toNat) % 16) := by
  rw [← toNat_neg4, BitVec.ofNat_toNat, BitVec.setWidth_eq]

/-- R110, R113: NEG_4 negates the value, except at -8, since 8 does not fit in four bits. -/
theorem dec4_neg4 {b : Nib} (hb : b ≠ 0b1000#4) : dec4 (neg4 b) = -dec4 b := by
  rw [neg4_eq_neg, dec4_eq_toInt, dec4_eq_toInt]
  exact BitVec.toInt_neg_of_ne_intMin hb

/-- R110, R113: the fixed points are the encodings of 0 and -8. -/
theorem neg4_eq_self_iff (b : Nib) : neg4 b = b ↔ b = 0b0000#4 ∨ b = 0b1000#4 := by
  revert b; decide

/-- Settles O9: the closed form in range, and the error outside it. -/
theorem encodeClosedForm : Obligations.EncodeClosedForm := by
  intro n v
  refine ⟨enc_eq_ofInt, fun hout => enc_error ?_⟩
  rintro ⟨hlo, hhi⟩
  omega

/-- Settles O10: the bits of a value decode to it, and a decoded value is in range. -/
theorem codecRoundTrip : Obligations.CodecRoundTrip :=
  ⟨fun _ _ hlo hhi => ⟨_, enc_eq_ofInt ⟨hlo, hhi⟩, dec_ofInt ⟨hlo, hhi⟩⟩, fun _ => enc_dec⟩

/-- Settles O11: DEC_w is the signed value, whose sign bit weighs -2^w on top of its unsigned weight. -/
theorem decodeIsTheSignedValue : Obligations.DecodeIsTheSignedValue := by
  intro n b
  refine ⟨?_, inRange_dec b⟩
  rw [dec_eq_toInt, BitVec.toInt_eq_msb_cond, msb_eq_getLsbD]
  split_ifs <;> simp

/-- Settles O12: SEXT_w_t is sign extension. -/
theorem signExtensionKeepsBitsAndValue : Obligations.SignExtensionKeepsBitsAndValue := fun _ _ h b =>
  ⟨fun _ hi => getLsbD_sext_of_le h b hi, fun _ hi hit => getLsbD_sext_of_gt h b hi (Nat.lt_succ_of_le hit),
    dec_sext h b⟩

/-- Settles O13: NEG_4 is negation modulo 16. -/
theorem negationOfANibble : Obligations.NegationOfANibble := by
  intro b
  refine ⟨toNat_neg4 b, ?_, neg4_eq_self_iff b, dec4_neg4⟩
  rw [neg4_eq_neg, neg4_eq_neg, BitVec.neg_neg]

/-- Settles O21: each output is the unit's function in bit-vector terms. -/
theorem codecFunctionsAnswer : Obligations.CodecFunctionsAnswer := by
  intro b a q s
  rw [← dec4_eq_toInt, ← dec8_eq_toInt, ← sext_eq_signExtend (by decide), ← neg4_eq_ofNat]
  exact ⟨rfl, rfl, rfl, rfl⟩

/-- Settles O36: a driven function's instruction only shows an output. -/
theorem wiredFunctionsTouchNoRegister : Obligations.WiredFunctionsTouchNoRegister := exec_driven

end Sys2Proof.Machine

/-! ## The arithmetic shift at every width, the shift register, the bit primitives -/
namespace Sys2Proof.Machine

section

variable {n : Nat} (b : BitVec (n + 1))

/-- R120: below the sign, each bit of the result is the next higher one. -/
theorem getLsbD_sra_of_lt {i : Nat} (hi : i < n) : (sra b).getLsbD i = b.getLsbD (i + 1) := by
  rw [sra, concat, BitVec.getLsbD_cast, BitVec.getLsbD_append, if_pos hi]
  simp [hi, Nat.add_comm]

/-- R121: the sign bit is replicated, whatever the width. -/
theorem getLsbD_sra_top : (sra b).getLsbD n = b.getLsbD n := by
  rw [sra, concat, BitVec.getLsbD_cast, BitVec.getLsbD_append, if_neg (Nat.lt_irrefl n), Nat.sub_self, getLsbD_msb]

/-- R120: SRA_w is the arithmetic shift right by one position. -/
theorem sra_eq_sshiftRight : sra b = b.sshiftRight 1 := by
  apply BitVec.eq_of_getLsbD_eq
  intro i hi
  rw [BitVec.getLsbD_sshiftRight, msb_eq_getLsbD]
  obtain hlt | rfl := Nat.lt_succ_iff_lt_or_eq.mp hi
  · rw [getLsbD_sra_of_lt b hlt, Nat.add_comm 1 i]
    simp [hlt, Nat.le_of_lt hlt]
  · rw [getLsbD_sra_top]
    simp

theorem dec_sra : dec (sra b) = dec b / 2 := by
  rw [dec_eq_toInt, dec_eq_toInt, sra_eq_sshiftRight, BitVec.toInt_sshiftRight, Int.shiftRight_eq_div_pow]
  rfl

theorem msb_sra : msb (sra b) = msb b := by
  rw [msb_eq_ofBool, msb_eq_ofBool, sra_eq_sshiftRight, BitVec.msb_sshiftRight]

end

theorem sra4_eq_sshiftRight (b : Nib) : sra4 b = b.sshiftRight 1 := sra_eq_sshiftRight (n := 3) b

theorem lsb_eq_ofBool {w : Nat} (b : BitVec w) : lsb b = BitVec.ofBool (b.getLsbD 0) := by
  apply BitVec.eq_of_getLsbD_eq
  intro i hi
  obtain rfl : i = 0 := by omega
  rw [getLsbD_lsb]
  simp

/-- R126: the first operand is the most significant part. -/
theorem concat_eq_ofNat {wa wb : Nat} (a : BitVec wa) (b : BitVec wb) :
    concat a b = BitVec.ofNat (wa + wb) (a.toNat * 2 ^ wb + b.toNat) := by
  rw [← Nat.shiftLeft_eq, Nat.shiftLeft_add_eq_or_of_lt b.isLt, ← BitVec.toNat_append, BitVec.ofNat_toNat,
    BitVec.setWidth_eq, concat]

/-- R126 at the width of CONCAT_4_4. -/
theorem concat_nibbles_eq_ofNat (a b : Nib) : concat a b = BitVec.ofNat 8 (a.toNat * 16 + b.toNat) :=
  concat_eq_ofNat a b

section

variable (a q : Nib) (g : Bit) {i : Nat}

/-- R74: bit 0 of the shift register is the guard bit. -/
theorem getLsbD_shreg_guard : (a ++ q ++ g).getLsbD 0 = g.getLsbD 0 := by
  rw [BitVec.getLsbD_append, if_pos Nat.one_pos]

/-- R74: `Q` stands in bits 4 to 1. -/
theorem getLsbD_shreg_q (hi : i < 4) : (a ++ q ++ g).getLsbD (i + 1) = q.getLsbD i := by
  rw [BitVec.getLsbD_append, if_neg (by omega), BitVec.getLsbD_append, Nat.add_sub_cancel, if_pos hi]

/-- R74: `A` stands in bits 8 to 5. -/
theorem getLsbD_shreg_a : (a ++ q ++ g).getLsbD (i + 5) = a.getLsbD i := by
  rw [BitVec.getLsbD_append, if_neg (by omega), BitVec.getLsbD_append, if_neg (by omega)]
  rfl

/-- R74: a bit of the shift register is the guard bit, one of `Q` or one of `A`. -/
theorem shreg_place_cases (hi : i < 9) : i = 0 ∨ (∃ j < 4, i = j + 1) ∨ ∃ j < 4, i = j + 5 := by
  revert i; decide

end

/-- Settles O14: SRA_w is the arithmetic shift by one position. -/
theorem arithmeticShiftHalvesAndKeepsTheSign : Obligations.ArithmeticShiftHalvesAndKeepsTheSign := fun _ b =>
  ⟨dec_sra b, msb_sra b⟩

/-- Settles O15, place by place: what leaves one register's low end enters the next one's top, and `A`'s sign stays. -/
theorem combinedShiftIsOneNineBitShift : Obligations.CombinedShiftIsOneNineBitShift := by
  intro a q g
  apply BitVec.eq_of_getLsbD_eq
  intro i hi
  obtain rfl | ⟨j, hj, rfl⟩ | ⟨j, hj, rfl⟩ := shreg_place_cases hi
  · rw [getLsbD_shreg_guard, getLsbD_shr9_qm1, getLsbD_sra_of_lt _ (by decide), getLsbD_shreg_q a q g (by decide)]
  · rw [getLsbD_shreg_q _ _ _ hj, getLsbD_sra_of_lt _ (by omega)]
    obtain hlt | rfl := Nat.lt_succ_iff_lt_or_eq.mp hj
    · rw [getLsbD_shr9_q_of_lt a q g hlt, getLsbD_shreg_q a q g (Nat.succ_lt_succ hlt)]
    · rw [getLsbD_shr9_q_three]
      exact (getLsbD_shreg_a a q g (i := 0)).symm
  · rw [getLsbD_shreg_a]
    obtain hlt | rfl := Nat.lt_succ_iff_lt_or_eq.mp hj
    · rw [getLsbD_shr9_a_of_lt a q g hlt, getLsbD_sra_of_lt _ (by omega)]
      exact (getLsbD_shreg_a a q g (i := j + 1)).symm
    · rw [getLsbD_shr9_a_three, getLsbD_sra_top]
      exact (getLsbD_shreg_a a q g (i := 3)).symm

/-- Settles O22: each output is the unit's function in bit-vector terms. -/
theorem shifterAndBitSelectorsAnswer : Obligations.ShifterAndBitSelectorsAnswer := by
  intro b s
  rw [← sra4_eq_sshiftRight, ← lsb_eq_ofBool, ← msb_eq_getLsbD, ← msb_eq_ofBool]
  exact ⟨rfl, rfl, rfl⟩

/-- Settles O23: each output is the unit's function, read as an unsigned value. -/
theorem concatenatorAndAdderAnswer : Obligations.ConcatenatorAndAdderAnswer := by
  intro a b s
  rw [← concat_nibbles_eq_ofNat, ← addMod_eq_ofNat_mod]
  exact ⟨rfl, rfl⟩

end Sys2Proof.Machine

/-! ## MUL and NOCMD, phase by phase -/
namespace Sys2Proof.Machine

/-- R142: a multiplicand out of range is reported, whatever the multiplier is. -/
theorem checkOperands_multiplicand {m : Int} (r : Int) (hm : ¬ OperandOk m) :
    checkOperands m r = .error ⟨m, -8, 7, .multiplicand⟩ := if_pos hm

/-- R142: the multiplier is reported only if the multiplicand passed. -/
theorem checkOperands_multiplier {m r : Int} (hm : OperandOk m) (hr : ¬ OperandOk r) :
    checkOperands m r = .error ⟨r, -8, 7, .multiplier⟩ := by
  rw [checkOperands, if_neg (not_not_intro hm), if_pos hr]

theorem acceptMul_of_error {m r : Int} {e : RangeError} (h : checkOperands m r = .error e) (s : State) :
    acceptMul m r s = takeRangeError e s := by
  rw [acceptMul, h]

/-- R183: what the rules write as two strict inequalities is that the operand test fails. -/
theorem not_operandOk_iff (v : Int) : ¬ OperandOk v ↔ v < -8 ∨ 7 < v := by
  rw [OperandOk, not_and_or, not_le, not_le]

section

variable (e : RangeError) (s : State)

/-- R188, R35: the payload just latched is the one read. -/
theorem errPayload_takeRangeError : errPayload (takeRangeError e s) = .ok ⟨e.value, -8, 7, e.which⟩ := rfl

theorem errValue_takeRangeError : errValue (takeRangeError e s) = .ok e.value := rfl

theorem errSrc_takeRangeError : errSrc (takeRangeError e s) = .ok (whichBit e.which) := rfl

end

/-- Settles O26: MUL takes the error of CHECK, and the views read what was latched. -/
theorem outOfRangeMulTakesRangeError : Obligations.OutOfRangeMulTakesRangeError := by
  intro s m r hb
  rw [exec_mul_of_not_busy m r hb]
  refine ⟨fun hm => ?_, fun hm hr => ?_⟩
  · rw [acceptMul_of_error (checkOperands_multiplicand r ((not_operandOk_iff m).2 hm))]
    exact ⟨_, rfl, rfl, errPayload_takeRangeError _ s, errValue_takeRangeError _ s, errSrc_takeRangeError _ s⟩
  · rw [acceptMul_of_error (checkOperands_multiplier hm ((not_operandOk_iff r).2 hr))]
    exact ⟨_, rfl, rfl, errPayload_takeRangeError _ s, errValue_takeRangeError _ s, errSrc_takeRangeError _ s⟩

/-- Settles O28: in BUSY both commands are ITER. -/
theorem mulDuringARunIsIgnored : Obligations.MulDuringARunIsIgnored := fun _ m r x y hb =>
  (exec_mul_of_busy m r hb).trans (exec_nocmd_of_busy x y hb).symm

/-- Settles O29: NOCMD outside BUSY has no effect. -/
theorem noCommandHolds : Obligations.NoCommandHolds := fun _ x y => exec_nocmd_of_not_busy x y

/-- Settles O38: of the cases of `exec_cases` only RESET, MUL and an iteration, which needs BUSY, write the phase or the
payload. -/
theorem errorIsLeftOnlyByMulOrReset : Obligations.ErrorIsLeftOnlyByMulOrReset := by
  intro i s t herr h hreset hmul
  rcases exec_cases h with ⟨start, m, r, hi, -⟩ | ⟨m, r, hi, -⟩ | ⟨hb, -⟩ | ⟨b, rfl⟩ | ⟨o, rfl⟩
  · exact absurd hi (hreset start m r)
  · exact absurd hi (hmul m r)
  · rw [herr] at hb
    cases hb
  · exact ⟨herr, rfl⟩
  · exact ⟨herr, rfl⟩

/-- Settles O47, by induction on the number of steps: each is NOCMD, which holds. -/
theorem quietPhasesPersist : Obligations.QuietPhasesPersist := by
  intro k s hb hhost
  induction k with
  | zero => exact run_zero s
  | succ k ih => rw [run_succ ((step_quiet hhost).trans (exec_nocmd_of_not_busy 0 0 hb)), ih]

/-- R168: a MUL outside BUSY leaves BUSY or ERROR, by the operand test alone. -/
theorem acceptMul_phase (m r : Int) (s : State) :
    (acceptMul m r s).phase = if OperandOk m ∧ OperandOk r then .busy else .error := by
  rcases acceptMul_cases m r s with ⟨hm, hr, h⟩ | ⟨hm, h⟩ | ⟨hm, hr, h⟩ <;> rw [h]
  · rw [if_pos ⟨hm, hr⟩, initRun_phase]
  · rw [if_neg fun hok => hm hok.1, takeRangeError_phase]
  · rw [if_neg fun hok => hr hok.2, takeRangeError_phase]

end Sys2Proof.Machine

namespace Sys2Proof.Safety
open Sys2Proof.Machine

/-- R30: the counter a state in BUSY may have. -/
theorem CounterLegal.cnt_le_three {s : State} (h : CounterLegal s) (hb : s.phase = .busy) : s.cnt.toNat ≤ 3 := by
  rwa [CounterLegal, hb] at h

/-- Settles O34: RESET first, then the run in progress, then the command. -/
theorem phaseMachine : Obligations.PhaseMachine := by
  intro s p rest hlegal hhost
  cases hrst : p.rst with
  | true =>
    exact ⟨resetState { s with host := rest }, by rw [step_clock hhost, Ports.command, if_pos hrst]; rfl, rfl⟩
  | false =>
    rw [if_neg (by decide)]
    by_cases hb : s.phase = .busy
    · refine ⟨_, step_clock_busy hhost hrst hb (hlegal.cnt_le_three hb), ?_⟩
      rw [iterated_phase (s := { s with host := rest }) hb, iterated_cnt, if_pos hb]
      simp only [cnt_succ_eq_four]
    · rw [if_neg hb, step_clock hhost, Ports.command, if_neg (by rw [hrst]; decide)]
      cases hstart : p.start with
      | true =>
        rw [if_pos rfl, if_pos rfl]
        exact ⟨_, exec_mul_of_not_busy p.multiplicand p.multiplier hb, acceptMul_phase _ _ _⟩
      | false =>
        rw [if_neg (by decide), if_neg (by decide)]
        exact ⟨_, exec_nocmd_of_not_busy p.multiplicand p.multiplier hb, rfl⟩

/-- Settles O45: the edges are as many as the run has iterations left. -/
theorem busyReachesDone : Obligations.BusyReachesDone := by
  intro s ps rest hb hcnt hrst hlen hhost
  have hne : s.cnt ≠ 4#3 := by
    intro h4
    simp [h4] at hcnt
  obtain ⟨t, hrun, hadv, hrest⟩ :=
    run_advancedBy (s := s) (by rw [RunPhase, if_neg hne, hb]) (by omega) hrst hhost
  have hfour : t.cnt = 4#3 := BitVec.eq_of_toNat_eq (by rw [hadv.cnt, hlen, Nat.add_sub_cancel' (by omega)]; rfl)
  exact ⟨t, hrun, by rw [hadv.phase, if_pos hfour], hfour, hrest, hadv.m, hadv.negm, hadv.qinit⟩

end Sys2Proof.Safety

/-! ## What `engine` answers, and that the block shows it -/
namespace Sys2Proof.Machine

section

variable {m r : Int}

/-- R156: with both operands in range `engine` answers the RESULT of their encodings. -/
theorem engine_of_operandOk (hm : OperandOk m) (hr : OperandOk r) :
    engine m r = .ok (runResult (enc4Bits m) (neg4 (enc4Bits m)) (enc4Bits r)) := by
  have hcheck : checkOperands m r = .ok () := by
    rw [checkOperands, if_neg (not_not_intro hm), if_neg (not_not_intro hr)]
  rw [engine, hcheck]

/-- R156, R182: what `engine` raises is what CHECK reports. -/
theorem engine_eq_error_iff {e : RangeError} : engine m r = .error e ↔ checkOperands m r = .error e := by
  rw [engine]
  cases checkOperands m r <;> simp

theorem engine_eq_ok_iff {res : Result} :
    engine m r = .ok res ↔
      (OperandOk m ∧ OperandOk r) ∧ res = runResult (enc4Bits m) (neg4 (enc4Bits m)) (enc4Bits r) := by
  rcases checkOperands_cases m r with ⟨hm, hr, -⟩ | ⟨hm, h⟩ | ⟨-, hr, h⟩
  · rw [engine_of_operandOk hm hr, and_iff_right ⟨hm, hr⟩, Except.ok.injEq, eq_comm]
  · rw [engine_eq_error_iff.2 h]
    exact ⟨nofun, fun ⟨⟨hm', _⟩, _⟩ => absurd hm' hm⟩
  · rw [engine_eq_error_iff.2 h]
    exact ⟨nofun, fun ⟨⟨_, hr'⟩, _⟩ => absurd hr' hr⟩

/-- R184: an error of CHECK has the constant bounds, so the payload read is that error. -/
theorem errPayload_of_checkOperands_error {e : RangeError} (h : checkOperands m r = .error e) (s : State) :
    errPayload (takeRangeError e s) = .ok e := by
  rcases checkOperands_cases m r with ⟨-, -, h'⟩ | ⟨-, h'⟩ | ⟨-, -, h'⟩ <;> rw [h'] at h <;> cases h <;> rfl

end

/-- Settles O48: RESULTs are answered to operands that pass CHECK. -/
theorem engineRaisesExactlyOutOfRange : Obligations.EngineRaisesExactlyOutOfRange := fun _ _ =>
  ⟨fun ⟨_, h⟩ => (engine_eq_ok_iff.1 h).1, fun ⟨hm, hr⟩ => ⟨_, engine_of_operandOk hm hr⟩⟩

end Sys2Proof.Machine

namespace Sys2Proof.Safety
open Sys2Proof.Machine

/-- R184, R188: after taking an error no result is shown. -/
theorem noResultVisible_takeRangeError (e : RangeError) (s : State) : NoResultVisible (takeRangeError e s) :=
  noResultVisible_of_not_done (by simp)

/-- Settles O27: CHECK reports an operand that fails the test, and MUL takes that error. -/
theorem failingMulShowsItsPayloadOnly : Obligations.FailingMulShowsItsPayloadOnly := by
  intro s m r hb hout
  rw [exec_mul_of_not_busy m r hb]
  by_cases hm : OperandOk m
  · have hr : ¬ OperandOk r := (not_operandOk_iff r).2
      ((or_assoc.2 hout).resolve_left (mt (not_operandOk_iff m).2 (not_not_intro hm)))
    have hcheck := checkOperands_multiplier hm hr
    exact ⟨_, _, congrArg _ (acceptMul_of_error hcheck s), engine_eq_error_iff.2 hcheck,
      errPayload_of_checkOperands_error hcheck s, rfl, rfl, .inr ⟨rfl, rfl⟩, (not_operandOk_iff r).1 hr,
      noResultVisible_takeRangeError _ s, rfl⟩
  · have hcheck := checkOperands_multiplicand r hm
    exact ⟨_, _, congrArg _ (acceptMul_of_error hcheck s), engine_eq_error_iff.2 hcheck,
      errPayload_of_checkOperands_error hcheck s, rfl, rfl, .inl ⟨rfl, rfl⟩, (not_operandOk_iff m).1 hm,
      noResultVisible_takeRangeError _ s, rfl⟩

/-- R153, R155: in DONE a state of the invariant shows the RESULT of its constants. -/
theorem Inv.result_eq {s : State} (h : Inv s) (hd : s.phase = .done) :
    result s = .ok (runResult s.m s.negm s.qinit) := by
  have hcnt : s.cnt = 4#3 := by
    have hc := h.counter
    rwa [CounterLegal, hd] at hc
  have hregisters := h.registers (.inr hd)
  have htrace := h.trace (.inr hd)
  rw [hcnt] at hregisters htrace
  have ha : s.a = (boothAfter s.m s.negm s.qinit 4).a := congrArg BoothState.a hregisters
  have hq : s.q = (boothAfter s.m s.negm s.qinit 4).q := congrArg BoothState.q hregisters
  have ht1 : s.trace.t1 = boothStep s.m s.negm s.qinit 0 := Option.some.inj (htrace 0 (by decide))
  have ht2 : s.trace.t2 = boothStep s.m s.negm s.qinit 1 := Option.some.inj (htrace 1 (by decide))
  have ht3 : s.trace.t3 = boothStep s.m s.negm s.qinit 2 := Option.some.inj (htrace 2 (by decide))
  have ht4 : s.trace.t4 = boothStep s.m s.negm s.qinit 3 := Option.some.inj (htrace 3 (by decide))
  rw [result, whenDone_of_done _ _ hd, ht1, ht2, ht3, ht4, runResult, ← ha, ← hq]

/-- Settles O44: a failing MUL takes the error `engine` raises; an accepted one and four edges reach a state of the
invariant in DONE, which shows the RESULT of its constants. -/
theorem runMatchesEngine : Obligations.RunMatchesEngine := by
  intro s m r ps rest hb hrst hlen hhost
  refine ⟨fun e he => ?_, fun res hres => ?_⟩
  · have hcheck := engine_eq_error_iff.1 he
    refine ⟨takeRangeError e { s with host := ps.map Stimulus.clock ++ rest }, ?_, rfl, ?_⟩
    · rw [step_clock hhost, ← acceptMul_of_error hcheck]
      exact exec_mul_of_not_busy m r hb
    · exact errPayload_of_checkOperands_error hcheck _
  · obtain ⟨⟨hm, hr⟩, rfl⟩ := engine_eq_ok_iff.1 hres
    obtain ⟨t, hrun, hinv, hrest, hphase, hcnt, htm, htq⟩ :=
      run_of_acceptedMul hb hm hr hrst hlen.le hhost
    rw [hlen] at hrun hcnt
    have hd : t.phase = .done := by rw [hphase, if_pos (BitVec.eq_of_toNat_eq hcnt)]
    refine ⟨t, hrun, hd, hrest, ?_⟩
    rw [hinv.result_eq hd, hinv.negm (.inr hd), htm, htq]

end Sys2Proof.Safety

/-! ## One iteration, in bit-vector terms -/
namespace Sys2Proof.Machine

/-- R76, R144: the operation, by `Q[0]` and `Qm1`. -/
theorem recodeOp_recodePattern (q : Nib) (g : Bit) :
    recodeOp (recodePattern q g) =
      if q.getLsbD 0 = g.getLsbD 0 then .nop else if g.getLsbD 0 = true then .addM else .subM := by
  rw [recodePattern, ← getLsbD_lsb q]
  generalize lsb q = b
  revert b g
  decide

/-- R122: the accumulator is shifted arithmetically. -/
theorem shr9_a (a q : Nib) (g : Bit) : (shr9 a q g).a = a.sshiftRight 1 := sra4_eq_sshiftRight a

/-- Settles O30: `A_op` and the operation are those of level S, and `iterated` is written out. -/
theorem iterationResult : Obligations.IterationResult := by
  intro s x y hb hcnt
  refine ⟨accumulatorOp (recodeOp (recodePattern s.q s.qm1)) s.a s.m s.negm,
    recodeOp (recodePattern s.q s.qm1), fun hnop => ?_, fun hq hg => ?_, fun hq hg => ?_, ?_⟩
  · rw [recodeOp_recodePattern, if_pos hnop]
    exact ⟨rfl, rfl⟩
  · rw [recodeOp_recodePattern, hq, hg]
    exact ⟨rfl, rfl⟩
  · rw [recodeOp_recodePattern, hq, hg]
    exact ⟨rfl, rfl⟩
  · rw [exec_nocmd_of_busy x y hb, iterate_next hcnt, ← shr9_a _ s.q s.qm1]
    simp only [← cnt_succ_eq_four, ← hb]
    rfl

/-- R145, R148: at equal bits an iteration only shifts. -/
theorem boothNext_of_nop (m negm : Nib) {b : BoothState} (h : b.q.getLsbD 0 = b.qm1.getLsbD 0) :
    boothNext m negm b = shr9 b.a b.q b.qm1 := by
  rw [boothNext, recodeOp_recodePattern, if_pos h, accumulatorOp]

/-- Settles O53: the shift keeps the sign of the accumulator it is given, which at equal bits is the old one. -/
theorem shiftPreservesTheSign : Obligations.ShiftPreservesTheSign := by
  intro m negm b
  refine ⟨getLsbD_shr9_a_three _ _ _, fun hnop => ?_⟩
  rw [boothNext_of_nop m negm hnop, getLsbD_shr9_a_three]

/-- Whatever is selected, zeros add to zero. -/
theorem accumulatorOp_zero (op : Op) : accumulatorOp op 0#4 0#4 0#4 = 0#4 := by
  cases op <;> rfl

/-- Settles O54, by induction on the iterations: pattern `00` selects NOP, and the shift of a zero accumulator is zero. -/
theorem zeroOperandsKeepTheAccumulatorZero : Obligations.ZeroOperandsKeepTheAccumulatorZero := by
  refine ⟨fun m negm k => ?_, fun q k => ?_⟩
  · induction k with
    | zero => rfl
    | succ k ih => rw [boothAfter, ih, boothNext_of_nop m negm rfl]; rfl
  · induction k with
    | zero => rfl
    | succ k ih => rw [boothAfter, boothNext, ih, accumulatorOp_zero]; rfl

end Sys2Proof.Machine

/-! ## An iteration of level S by its number: the operation, `A_op`, and the bits that end up in `Q` -/
namespace Sys2Proof.Machine

/-- The operation of iteration `k + 1` of a run (R144). -/
def boothOp (m negm qinit : Nib) (k : Nat) : Op :=
  recodeOp (recodePattern (boothAfter m negm qinit k).q (boothAfter m negm qinit k).qm1)

/-- `A_op` of iteration `k + 1` of a run (R150). -/
def boothAOp (m negm qinit : Nib) (k : Nat) : Nib :=
  accumulatorOp (boothOp m negm qinit k) (boothAfter m negm qinit k).a m negm

section

variable (m negm qinit : Nib)

/-- R150: an iteration shifts its `A_op` with `Q` and `Qm1`. -/
theorem boothAfter_succ (k : Nat) :
    boothAfter m negm qinit (k + 1) =
      shr9 (boothAOp m negm qinit k) (boothAfter m negm qinit k).q (boothAfter m negm qinit k).qm1 := rfl

/-- R171: the bit shifted out of `A_op` enters `Q` at the top and moves down one place in each later iteration. -/
theorem getLsbD_boothAfter_q_shiftedOut (k : Nat) {j : Nat} (hj : j < 4) :
    (boothAfter m negm qinit (k + 1 + j)).q.getLsbD (3 - j) = (boothAOp m negm qinit k).getLsbD 0 := by
  induction j with
  | zero => rw [Nat.add_zero, boothAfter_succ, Nat.sub_zero, getLsbD_shr9_q_three]
  | succ j ih =>
    have hplace : 3 - (j + 1) + 1 = 3 - j := by omega
    rw [← Nat.add_assoc, boothAfter_succ, getLsbD_shr9_q_of_lt _ _ _ (by omega), hplace, ih (by omega)]

end

/-- Settles O56: each record of `boothStep` starts where the one before ends, and the bits of the final `Q` and the guard
bits are known place by place. -/
theorem traceLaws : Obligations.TraceLaws := by
  intro m r res h
  obtain ⟨-, rfl⟩ := engine_eq_ok_iff.1 h
  refine ⟨_, _, _, _, rfl, ⟨rfl, rfl, rfl, rfl⟩, ⟨rfl, rfl, rfl⟩, ⟨rfl, rfl, rfl⟩, ⟨rfl, rfl, rfl⟩,
    ⟨rfl, rfl, rfl⟩, rfl, ?finalQ, ?guards⟩
  case finalQ =>
    exact ⟨getLsbD_boothAfter_q_shiftedOut _ _ _ 0 (j := 3) (by decide),
      getLsbD_boothAfter_q_shiftedOut _ _ _ 1 (j := 2) (by decide),
      getLsbD_boothAfter_q_shiftedOut _ _ _ 2 (j := 1) (by decide),
      getLsbD_boothAfter_q_shiftedOut _ _ _ 3 (j := 0) (by decide)⟩
  case guards =>
    exact ⟨boothAfter_succ_qm1 _ _ _ (by decide), boothAfter_succ_qm1 _ _ _ (by decide),
      boothAfter_succ_qm1 _ _ _ (by decide), boothAfter_succ_qm1 _ _ _ (by decide)⟩

end Sys2Proof.Machine

/-! ## The value of a run: no add of it overflows, and what its product is (R158 to R160) -/
namespace Sys2Proof.Machine

/-- The multiple of the multiplicand that an operation adds (R145 to R148). -/
def opMultiple : Op → Int
  | .nop => 0
  | .addM => 1
  | .subM => -1

/-- The signed value of the lowest `k` bits of a word. -/
def lowValue {w : Nat} (b : BitVec w) (k : Nat) : Int := (b.setWidth k).toInt

@[simp] theorem lowValue_zero {w : Nat} (b : BitVec w) : lowValue b 0 = 0 :=
  BitVec.toInt_of_zero_length rfl _

@[simp] theorem lowValue_width {w : Nat} (b : BitVec w) : lowValue b w = b.toInt := by
  rw [lowValue, BitVec.setWidth_eq]

theorem lowValue_succ_bounds {w : Nat} (b : BitVec w) (k : Nat) :
    -2 ^ k ≤ lowValue b (k + 1) ∧ lowValue b (k + 1) < 2 ^ k :=
  ⟨BitVec.le_toInt _, BitVec.toInt_lt⟩

/-- The bit that was the sign weighs `2 ^ k` more once a bit stands above it. -/
theorem lowValue_succ {w : Nat} (b : BitVec w) (k : Nat) :
    lowValue b (k + 1) = lowValue b k + 2 ^ k * ((b.setWidth k).msb.toInt - (b.getLsbD k).toInt) := by
  rw [lowValue, lowValue, BitVec.setWidth_succ, BitVec.toInt_eq_msb_cond, BitVec.toInt_eq_msb_cond,
    BitVec.msb_cons, BitVec.toNat_cons']
  cases b.getLsbD k <;> cases (b.setWidth k).msb <;> simp [pow_succ, Nat.shiftLeft_eq] <;> ring

/-- Booth's recoding: the operation's multiple is the guard bit less `Q[0]` (R76). -/
theorem opMultiple_recodeOp (q : Nib) (g : Bit) :
    opMultiple (recodeOp (recodePattern q g)) = (g.getLsbD 0).toInt - (q.getLsbD 0).toInt := by
  rw [recodeOp_recodePattern]
  cases q.getLsbD 0 <;> cases g.getLsbD 0 <;> rfl

section

variable (m negm qinit : Nib) {k : Nat}

/-- The guard bit is the sign of the multiplier's bits already used. -/
theorem getLsbD_boothAfter_qm1 (hk : k ≤ 4) :
    (boothAfter m negm qinit k).qm1.getLsbD 0 = (qinit.setWidth k).msb := by
  cases k with
  | zero => rw [BitVec.msb_zero_length, boothAfter, BitVec.getLsbD_zero]
  | succ k =>
    rw [boothAfter_succ_qm1 m negm qinit (by omega), BitVec.setWidth_succ, BitVec.msb_cons]
    simp

/-- The multiples of the operations, each at the weight of its iteration, add up to the multiplier's value. -/
theorem opMultiple_boothOp (hk : k < 4) :
    2 ^ k * opMultiple (boothOp m negm qinit k) = lowValue qinit (k + 1) - lowValue qinit k := by
  have hq := getLsbD_boothAfter_q m negm qinit (k := k) (j := 0) (by omega)
  rw [boothOp, opMultiple_recodeOp, getLsbD_boothAfter_qm1 m negm qinit hk.le, hq, lowValue_succ]
  simp

end

/-- With M and NEGM the encodings of `v` and `-v`, `A_op` is the sum modulo 16, whether or not it fits. -/
theorem accumulatorOp_eq_ofInt (op : Op) (a : Nib) (v : Int) :
    accumulatorOp op a (BitVec.ofInt 4 v) (BitVec.ofInt 4 (-v)) = BitVec.ofInt 4 (a.toInt + opMultiple op * v) := by
  rw [BitVec.ofInt_add, BitVec.ofInt_toInt]
  cases op <;> simp [accumulatorOp, opMultiple, addMod_eq_add]

/-- R122: what SHR9 takes out of the accumulator is its parity. -/
theorem two_mul_toInt_shr9_a (a q : Nib) (g : Bit) : 2 * (shr9 a q g).a.toInt + a.toNat % 2 = a.toInt := by
  rw [shr9_a, BitVec.toInt_sshiftRight, Int.shiftRight_eq_div_pow, BitVec.toInt_eq_toNat_cond]
  split <;> omega

theorem toNat_shr9_q (a q : Nib) (g : Bit) : (shr9 a q g).q.toNat = 8 * (a.toNat % 2) + q.toNat / 2 := by
  have hlt := q.isLt
  have hshift : (shr9 a q g).q = BitVec.ofNat 4 ((lsb a).toNat * 2 ^ 3 + (q.extractLsb' 1 3).toNat) :=
    concat_eq_ofNat (lsb a) (q.extractLsb' 1 3)
  rw [hshift, BitVec.toNat_ofNat, lsb, BitVec.extractLsb'_toNat, BitVec.extractLsb'_toNat]
  simp only [Nat.shiftRight_eq_div_pow]
  omega

/-- The bits of the product that `k` iterations have put into `Q`, as an unsigned value: the `k` highest. -/
def productBits (q : Nib) (k : Nat) : Nat := q.toNat / 2 ^ (4 - k)

theorem productBits_lt (q : Nib) {k : Nat} (hk : k ≤ 4) : productBits q k < 2 ^ k := by
  rw [productBits, Nat.div_lt_iff_lt_mul (by positivity), ← pow_add, Nat.add_sub_cancel' hk]
  exact q.isLt

/-- One more iteration puts the bit shifted out of the accumulator above the others. -/
theorem productBits_shr9 (a q : Nib) (g : Bit) {k : Nat} (hk : k < 4) :
    productBits (shr9 a q g).q (k + 1) = 2 ^ k * (a.toNat % 2) + productBits q k := by
  rw [productBits, productBits, toNat_shr9_q]
  interval_cases k <;> omega

/-- A partial product of a multiplicand in [-7, 8] lies in the range of the accumulator at its weight. -/
theorem partialProduct_bounds {v p w : Int} (hlo : -7 ≤ v) (hhi : v ≤ 8) (hp : -w ≤ p) (hp' : p < w) :
    -8 * w ≤ p * v ∧ p * v < 8 * w := by
  rcases le_total 0 v with hv | hv
  · constructor <;> nlinarith
  · constructor <;> nlinarith

section

variable {v : Int} (hlo : -7 ≤ v) (hhi : v ≤ 8) (qinit : Nib)

/-- The registers after `k` iterations, with M and NEGM the encodings of `v` and `-v`. -/
abbrev runOf (v : Int) (qinit : Nib) (k : Nat) : BoothState :=
  boothAfter (BitVec.ofInt 4 v) (BitVec.ofInt 4 (-v)) qinit k

/-- `A_op` of iteration `k + 1` of that run. -/
abbrev runAOp (v : Int) (qinit : Nib) (k : Nat) : Nib :=
  boothAOp (BitVec.ofInt 4 v) (BitVec.ofInt 4 (-v)) qinit k

/-- The operation of iteration `k + 1` of that run. -/
abbrev runOp (v : Int) (qinit : Nib) (k : Nat) : Op :=
  boothOp (BitVec.ofInt 4 v) (BitVec.ofInt 4 (-v)) qinit k

/-- `A` and the product bits in `Q` together are the product of `v` and the multiplier's bits used so far. -/
def HoldsPartialProduct (v : Int) (qinit : Nib) (k : Nat) : Prop :=
  2 ^ k * (runOf v qinit k).a.toInt + productBits (runOf v qinit k).q k = lowValue qinit k * v

section

variable {qinit} {k : Nat} (hk : k < 4) (h : HoldsPartialProduct v qinit k)
include hk h

/-- What the sum of an iteration would be if nothing wrapped is the next partial product. -/
theorem HoldsPartialProduct.sum_eq :
    2 ^ k * ((runOf v qinit k).a.toInt + opMultiple (runOp v qinit k) * v) + productBits (runOf v qinit k).q k =
      lowValue qinit (k + 1) * v := by
  have hop := opMultiple_boothOp (BitVec.ofInt 4 v) (BitVec.ofInt 4 (-v)) qinit hk
  rw [HoldsPartialProduct] at h
  linear_combination h + v * hop

include hlo hhi

/-- R160: the sum fits the accumulator, since the next partial product does. -/
theorem HoldsPartialProduct.toInt_runAOp :
    (runAOp v qinit k).toInt = (runOf v qinit k).a.toInt + opMultiple (runOp v qinit k) * v := by
  have hsum := h.sum_eq hk
  have hbits := productBits_lt (runOf v qinit k).q hk.le
  obtain ⟨hp, hp'⟩ := lowValue_succ_bounds qinit k
  obtain ⟨hmin, hmax⟩ := partialProduct_bounds hlo hhi hp hp'
  have hfits : InRange 3 ((runOf v qinit k).a.toInt + opMultiple (runOp v qinit k) * v) := by
    rw [← hsum] at hmin hmax
    zify at hbits
    have hpos : (0 : Int) < 2 ^ k := by positivity
    constructor <;> nlinarith
  rw [runAOp, boothAOp, accumulatorOp_eq_ofInt, ← dec4_eq_toInt]
  exact dec_ofInt hfits

/-- The shift moves one bit of the sum to `Q` and loses none. -/
theorem HoldsPartialProduct.succ : HoldsPartialProduct v qinit (k + 1) := by
  have hsum := h.sum_eq hk
  have hparity := two_mul_toInt_shr9_a (runAOp v qinit k) (runOf v qinit k).q (runOf v qinit k).qm1
  rw [← h.toInt_runAOp hlo hhi hk, ← hparity] at hsum
  rw [HoldsPartialProduct, runOf, boothAfter_succ, productBits_shr9 _ _ _ hk, ← hsum]
  push_cast
  ring

end

include hlo hhi

/-- R158, R159: every iteration of a run leaves the partial product of the multiplier's bits it has used. -/
theorem holdsPartialProduct {k : Nat} (hk : k ≤ 4) : HoldsPartialProduct v qinit k := by
  induction k with
  | zero =>
    have hq : productBits qinit 0 = 0 := Nat.lt_one_iff.1 (productBits_lt qinit (by decide))
    simp [HoldsPartialProduct, boothAfter, hq]
  | succ k ih => exact (ih (by omega)).succ hlo hhi (by omega)

/-- R160: no sum of a run wraps. -/
theorem toInt_runAOp {k : Nat} (hk : k < 4) :
    (runAOp v qinit k).toInt = (runOf v qinit k).a.toInt + opMultiple (runOp v qinit k) * v :=
  (holdsPartialProduct hlo hhi qinit hk.le).toInt_runAOp hlo hhi hk

/-- R154: after four iterations `A ‖ Q` is the product. -/
theorem dec8_runOf : dec8 (concat (runOf v qinit 4).a (runOf v qinit 4).q) = qinit.toInt * v := by
  have h := holdsPartialProduct hlo hhi qinit le_rfl
  rw [HoldsPartialProduct, lowValue_width, productBits, Nat.sub_self, pow_zero, Nat.div_one] at h
  rw [dec8_eq_toInt, concat, BitVec.toInt_append, ← h]
  rfl

end

end Sys2Proof.Machine

/-! ## The product `engine` answers -/
namespace Sys2Proof.Machine

/-- The multiplicand a run in fact multiplies by: NEG_4 keeps `1000`, so -8 acts as 8 (R110, R159). -/
def effectiveMultiplicand (m : Int) : Int := if m = -8 then 8 else m

theorem effectiveMultiplicand_of_ne {m : Int} (h : m ≠ -8) : effectiveMultiplicand m = m := if_neg h

section

variable {m r : Int}

theorem effectiveMultiplicand_bounds (hm : OperandOk m) :
    -7 ≤ effectiveMultiplicand m ∧ effectiveMultiplicand m ≤ 8 := by
  obtain ⟨hlo, hhi⟩ : -8 ≤ m ∧ m ≤ 7 := hm
  rw [effectiveMultiplicand]
  split_ifs <;> omega

theorem enc4Bits_eq_effective (m : Int) : enc4Bits m = BitVec.ofInt 4 (effectiveMultiplicand m) := by
  rw [enc4Bits_eq_ofInt, effectiveMultiplicand]
  split_ifs with h
  · rw [h]; rfl
  · rfl

theorem neg4_enc4Bits_eq_effective (m : Int) :
    neg4 (enc4Bits m) = BitVec.ofInt 4 (-effectiveMultiplicand m) := by
  rw [enc4Bits_eq_effective, neg4_eq_neg, BitVec.ofInt_neg]

theorem toInt_enc4Bits (hr : OperandOk r) : (enc4Bits r).toInt = r := by
  rw [enc4Bits_eq_ofInt, ← dec4_eq_toInt]
  exact dec_ofInt ((operandOk_iff_inRange r).1 hr)

/-- R154, R158, R159: the decimal product, for every multiplicand. -/
theorem runResult_productDec (hm : OperandOk m) (hr : OperandOk r) :
    (runResult (enc4Bits m) (neg4 (enc4Bits m)) (enc4Bits r)).productDec = effectiveMultiplicand m * r := by
  obtain ⟨hlo, hhi⟩ := effectiveMultiplicand_bounds hm
  rw [neg4_enc4Bits_eq_effective, enc4Bits_eq_effective m, runResult]
  exact (dec8_runOf hlo hhi (enc4Bits r)).trans (by rw [toInt_enc4Bits hr, Int.mul_comm])

/-- R154: the binary product encodes the decimal one. -/
theorem enc_runResult_productDec (m negm qinit : Nib) :
    enc 7 (runResult m negm qinit).productDec = .ok (runResult m negm qinit).productBin := enc_dec _

theorem exists_engine_product (hm : OperandOk m) (hr : OperandOk r) :
    ∃ res, engine m r = .ok res ∧ res.productDec = effectiveMultiplicand m * r ∧
      enc 7 (effectiveMultiplicand m * r) = .ok res.productBin := by
  refine ⟨_, engine_of_operandOk hm hr, runResult_productDec hm hr, ?_⟩
  rw [← runResult_productDec hm hr, enc_runResult_productDec]

end

/-- Settles O49: the effective multiplicand is `m`, or the multiplier is 0. -/
theorem engineIsExactForMultiplicandsAboveMinus8 : Obligations.EngineIsExactForMultiplicandsAboveMinus8 := by
  intro m r hm hm' hr hr' hzero
  have hproduct : effectiveMultiplicand m * r = m * r := by
    by_cases h : m = -8
    · rw [hzero h, Int.mul_zero, Int.mul_zero]
    · rw [effectiveMultiplicand_of_ne h]
  rw [← hproduct]
  exact exists_engine_product ⟨hm, hm'⟩ ⟨hr, hr'⟩

/-- Settles O50: -8 acts as 8. -/
theorem engineNegatesTheProductAtMinus8 : Obligations.EngineNegatesTheProductAtMinus8 := fun _ hr hr' =>
  exists_engine_product (m := -8) (by decide) ⟨hr, hr'⟩

/-- Settles O55: the product of an effective multiplicand in [-7, 8] and a multiplier in [-8, 7]. -/
theorem productNeverOverflows : Obligations.ProductNeverOverflows := by
  intro m r res h
  obtain ⟨⟨hm, hr⟩, rfl⟩ := engine_eq_ok_iff.1 h
  obtain ⟨hlo, hhi⟩ := effectiveMultiplicand_bounds hm
  obtain ⟨hmin, hmax⟩ := hr
  rw [runResult_productDec hm ⟨hmin, hmax⟩]
  constructor <;> nlinarith

/-- A multiplier other than 0 has two neighbouring bits that differ, the lowest standing above a 0. -/
theorem exists_boothOp_ne_nop (m negm : Nib) {qinit : Nib} (hq : qinit.toInt ≠ 0) :
    ∃ k < 4, boothOp m negm qinit k ≠ .nop := by
  by_contra! hnops
  have hlow : ∀ k ≤ 4, lowValue qinit k = 0 := by
    intro k hk
    induction k with
    | zero => exact lowValue_zero qinit
    | succ k ih =>
      have hop := opMultiple_boothOp m negm qinit (k := k) (by omega)
      rw [hnops k (by omega), opMultiple, ih (by omega)] at hop
      omega
  exact hq ((lowValue_width qinit).symm.trans (hlow 4 le_rfl))

/-- Settles O51: with a multiplicand in [-7, 7] every sum is as it should be; -8 acts as 8, so that an operation other
than NOP, which every multiplier but 0 selects, adds 8 where -8 was meant, or the reverse. -/
theorem addsOverflowOnlyAtMinus8 : Obligations.AddsOverflowOnlyAtMinus8 := by
  refine ⟨fun m r k hm hm' hr hr' hk => ?_, fun r hr hr' hne => ?_⟩
  · have hsum := toInt_runAOp hm (by omega) (enc4Bits r) hk
    rw [enc4Bits_eq_ofInt m, neg4_eq_neg, ← BitVec.ofInt_neg]
    intro b op
    have hmultiple : opMultiple op * m = match op with | .nop => 0 | .addM => m | .subM => -m := by
      cases op <;> simp [opMultiple]
    rw [dec4_eq_toInt, dec4_eq_toInt]
    exact hsum.trans (congrArg _ hmultiple)
  · have hr0 : (enc4Bits r).toInt ≠ 0 := by rwa [toInt_enc4Bits ⟨hr, hr'⟩]
    obtain ⟨k, hk, hop⟩ := exists_boothOp_ne_nop (BitVec.ofInt 4 8) (BitVec.ofInt 4 (-8)) hr0
    have hsum := toInt_runAOp (v := 8) (by decide) le_rfl (enc4Bits r) hk
    refine ⟨k, hk, ?_⟩
    intro b op
    have hmultiple : opMultiple op * 8 ≠ match op with | .nop => 0 | .addM => -8 | .subM => 8 := by
      have hop : op ≠ .nop := hop
      revert hop
      cases op <;> decide
    rw [dec4_eq_toInt, dec4_eq_toInt]
    exact fun heq => hmultiple (Int.add_left_cancel (hsum.symm.trans heq))

end Sys2Proof.Machine

/-! ## Outputs that hold no value -/
namespace Sys2Proof.Safety
open Sys2Proof.Machine

/-- Settles O57: the result views hold their value only in DONE, the error views only in ERROR. -/
theorem outputsHoldNoValueOutsideTheirPhase : Obligations.OutputsHoldNoValueOutsideTheirPhase := fun _ =>
  ⟨noResultVisible_of_not_done, noErrorVisible_of_not_error⟩

end Sys2Proof.Safety
